-- ==== Sys2Proof/Syntax.lean ====
section
/-! DEFINITION. The block's operations: one constructor per row of spec/opcode_table.json (R71, R74). -/

namespace Sys2Proof

/-- An operation, selected by the state code alone; no operation has an operand field (R70). -/
inductive Instr where
  | fwdInit
  | check
  | loadA
  | loadB
  | shiftLo
  | shiftHi
  | latch
  | poll1
  | poll2
  | delay
  | poll3
  | passEnd
  | revInit
  | reservedD
  | reservedE
  | reservedF
  deriving DecidableEq, Repr

end Sys2Proof
end

