-- ==== Sys2Proof/Word.lean ====
section
/-! DEFINITION. The words of the block that have one fixed width: the pattern-store byte and the state code. -/

namespace Sys2Proof

/-- One byte of the pattern store, and the shift register that sends it (R7 "byte width" 8, R50). -/
abbrev Byte := BitVec 8

/-- A state code `S[3:0]`: the block's instruction word (R2, R21, R70). -/
abbrev Code := BitVec 4

end Sys2Proof
end

