-- ==== Sys2Proof/Decode.lean ====
section
/-! DEFINITION. The decoder of R71's map, total on the 16 codes and on any list of bytes, and the encoder. -/

namespace Sys2Proof

/-- R71's map, read off its column "bits `S[3:0]`": all four bits are matched, and the reserved codes have arms of their
own (R74, R75). -/
def decodeCode (w : Code) : Instr :=
  match w[3], w[2], w[1], w[0] with
  | false, false, false, false => .fwdInit
  | false, false, false, true  => .check
  | false, false, true,  false => .loadA
  | false, false, true,  true  => .loadB
  | false, true,  false, false => .shiftLo
  | false, true,  false, true  => .shiftHi
  | false, true,  true,  false => .latch
  | false, true,  true,  true  => .poll1
  | true,  false, false, false => .poll2
  | true,  false, false, true  => .delay
  | true,  false, true,  false => .poll3
  | true,  false, true,  true  => .passEnd
  | true,  true,  false, false => .revInit
  | true,  true,  false, true  => .reservedD
  | true,  true,  true,  false => .reservedE
  | true,  true,  true,  true  => .reservedF

/-- Why a list of bytes holds no state code. -/
inductive DecodeReject where
  /-- There is no byte to read a code from. -/
  | noCode
  /-- The byte has a bit above bit 3, where format `STATE4` has only `S[3:0]` (R70). -/
  | widerThanFourBits
  deriving DecidableEq, Repr

/-- A code laid out in bytes: one code a byte, in its low four bits (log 5: the spec stores codes in no memory). -/
def decodeBytes : List Byte → Except DecodeReject (Instr × List Byte)
  | [] => .error .noCode
  | b :: rest => if b.toNat < 16 then .ok (decodeCode (b.setWidth 4), rest) else .error .widerThanFourBits

/-- The code of an operation, R71's column "code". -/
def encode : Instr → Code
  | .fwdInit   => 0x0#4
  | .check     => 0x1#4
  | .loadA     => 0x2#4
  | .loadB     => 0x3#4
  | .shiftLo   => 0x4#4
  | .shiftHi   => 0x5#4
  | .latch     => 0x6#4
  | .poll1     => 0x7#4
  | .poll2     => 0x8#4
  | .delay     => 0x9#4
  | .poll3     => 0xA#4
  | .passEnd   => 0xB#4
  | .revInit   => 0xC#4
  | .reservedD => 0xD#4
  | .reservedE => 0xE#4
  | .reservedF => 0xF#4

/-- The code laid out in a byte, as `decodeBytes` reads it. -/
def encodeByte (i : Instr) : Byte := (encode i).setWidth 8

/-- The bytes of an instruction whose bits are `w`, numbered as spec/opcode_table.json numbers them, the first byte
holding bits 7..0. -/
def tableBytes (w : Nat) : Nat → List Byte
  | 0 => []
  | n + 1 => BitVec.ofNat 8 w :: tableBytes (w / 256) n

/-- What the decoder reads from an instruction of the table: the whole instruction is one code, so any byte after the
first must hold no bit. -/
def decodeTableWord (nbits w : Nat) : Option Instr :=
  match decodeBytes (tableBytes (w % 2 ^ nbits) ((nbits + 7) / 8)) with
  | .ok (i, rest) => if rest.all (· == 0#8) then some i else none
  | .error _ => none

end Sys2Proof
end

