-- ==== Sys2Proof/Config.lean ====
section
/-! DEFINITION. The configuration parameters of R7, the levels the input ports carry at one clock edge, and the
values the spec leaves open, which are constants with no body. -/

namespace Sys2Proof

/-- One catalog entry `(start, len)` (R7 `CATALOG`, R14 "Catalog entry"). -/
structure Entry where
  start : Nat
  len   : Nat
  deriving DecidableEq, Repr, Inhabited

/-- The levels of the three free input ports at one rising edge of `clk` (R39, R43, R190). -/
structure PortIn where
  rst        : Bool
  btnSpeed   : Bool
  btnPattern : Bool
  deriving DecidableEq, Repr, Inhabited

/-- The configuration of R7: constant for the life of the block (R20). `STORE` is held beside it, in
`Machine.State.store`. `N_PAT`, `CW` and `PW` are derived below, as R7 derives them. -/
structure Config where
  /-- `CATALOG[0..N_PAT-1]`. -/
  catalog    : List Entry
  /-- `STORE_SIZE`, the number of defined bytes of the pattern store. -/
  storeSize  : Nat
  /-- `ADDR_W`, the width of the port `mem_addr`. -/
  addrW      : Nat
  /-- `DELAY_BASE`. -/
  delayBase  : Nat
  /-- `DELAY_STEP`. -/
  delayStep  : Nat
  /-- `DELAY_WRAP`. -/
  delayWrap  : Nat
  /-- `DW`, the width of `delay` and `ticks`. -/
  dw         : Nat
  /-- `IW`, the width of `idx`. -/
  iw         : Nat
  /-- `TICK_MS`: names the real time of a tick; no rule of the block reads it (R203). -/
  tickMs     : Nat
  /-- `F_CLK_HZ`: no rule of the block reads it (R7, R203). -/
  fClkHz     : Nat
  /-- `TICK_CYCLES`, clock cycles per delay tick. -/
  tickCycles : Nat
  deriving DecidableEq, Repr

/-- `N_PAT`, the number of catalog entries (R7). -/
abbrev Config.nPat (c : Config) : Nat := c.catalog.length

/-- `CW = ADDR_W + 1`, the width of `i`, `e_start` and `e_len` (R7, D15). -/
def Config.cw (c : Config) : Nat := c.addrW + 1

/-- The first width from `p` on that holds `n` codes, looked for in `fuel` trials. -/
def leastWidthFrom (n p : Nat) : Nat → Nat
  | 0 => p
  | fuel + 1 => if n ≤ 2 ^ p then p else leastWidthFrom n (p + 1) fuel

/-- `PW`, the width of the prescaler: the least integer `>= 1` with `2^PW >= TICK_CYCLES` (R7). -/
def Config.pw (c : Config) : Nat := leastWidthFrom c.tickCycles 1 c.tickCycles

/-- R203's nominal tick length in cycles, `F_CLK_HZ * TICK_MS / 1000`; the integrator's rounding is open (R195), so no
rule and no check ties `tickCycles` to it. -/
def Config.nominalTickCycles (c : Config) : Nat := c.fClkHz * c.tickMs / 1000

/-- `TICK_CYCLES - 1` of this hardware: OPEN in R7, so a free value (log 2). Only `TICK_CYCLES >= 1` is known. -/
opaque Config.freeTickCyclesPred : Nat

/-- `F_CLK_HZ` of this hardware: OPEN in R7, so a free value (log 2). -/
opaque Config.freeClkHz : Nat

/-- The byte `STORE[a]` where the state lists none: `STORE` is OPEN in R7 and "any value" past `STORE_SIZE` (R55, U2,
U3), so a free value of the address alone, since the store is constant (R65; log 3). -/
opaque Config.freeStoreByte : Nat → Byte

/-- The free draw of the input ports for the cycle of this number (R43, R190: `btn_speed`, `btn_pattern` and `rst` are
free in every cycle; log 4). -/
opaque Config.freeInput : Nat → PortIn

/-- This hardware: the reference configuration of R7, its OPEN parameters free. -/
def Config.hw : Config where
  catalog    := [⟨0, 32⟩, ⟨32, 16⟩, ⟨48, 8⟩, ⟨56, 32⟩, ⟨88, 32⟩]
  storeSize  := 120
  addrW      := 7
  delayBase  := 3
  delayStep  := 6
  delayWrap  := 39
  dw         := 6
  iw         := 3
  tickMs     := 5
  fClkHz     := Config.freeClkHz
  tickCycles := Config.freeTickCyclesPred + 1

end Sys2Proof
end

