-- ==== Sys2Proof/Machine/State.lean ====
section
/-! DEFINITION. The registers of the block (R20 to R35), the state of the model around them, the reasons a step can
stop, and the state after reset (R44). -/

namespace Sys2Proof.Machine

/-- The registers of R21 to R35: the whole state of the block (R20). Every one-bit register is a `Bool`, `true` for 1. -/
@[ext]
structure Regs (c : Config) where
  /-- `S[3:0]`, the state code: the block's program counter (R21, R42). -/
  S        : Code
  /-- `dir`, the scan direction: 0 FORWARD, 1 REVERSE (R22). -/
  dir      : Bool
  /-- `k`, the byte select within the pair (R23). -/
  k        : Bool
  /-- `bitcnt[2:0]`, the index of the bit on `ser_data` (R24). -/
  bitcnt   : BitVec 3
  /-- `shreg[7:0]`, the serializer's shift register (R25). -/
  shreg    : Byte
  /-- `i[CW-1:0]`, the scan offset (R26). -/
  i        : BitVec c.cw
  /-- `e_start[CW-1:0]`, the start of the latched entry (R27). -/
  eStart   : BitVec c.cw
  /-- `e_len[CW-1:0]`, the length of the latched entry (R27). -/
  eLen     : BitVec c.cw
  /-- `ticks[DW-1:0]`, the delay ticks still to run (R28). -/
  ticks    : BitVec c.dw
  /-- `pre[PW-1:0]`, the tick prescaler (R29). -/
  pre      : BitVec c.pw
  /-- `idx[IW-1:0]`, the active pattern index (R30). -/
  idx      : BitVec c.iw
  /-- `rev`, reversing (R31). -/
  rev      : Bool
  /-- `delay[DW-1:0]`, the delay level (R32). -/
  delay    : BitVec c.dw
  /-- `sw`, the switch request (R33). -/
  sw       : Bool
  /-- `spd_latch`, the speed button's pressed latch (R34). -/
  spdLatch : Bool
  /-- `pat_latch`, the pattern button's pressed latch (R34). -/
  patLatch : Bool
  /-- `spd_s1`, first stage of the speed button's synchroniser (R35). -/
  spdS1    : Bool
  /-- `spd_s2`, its second stage (R35). -/
  spdS2    : Bool
  /-- `pat_s1`, first stage of the pattern button's synchroniser (R35). -/
  patS1    : Bool
  /-- `pat_s2`, its second stage (R35). -/
  patS2    : Bool
  deriving DecidableEq, Repr

/-- `RESET_STATE`, register by register (R44). -/
def Regs.reset (c : Config) : Regs c where
  S        := 0x0#4
  dir      := false
  k        := false
  bitcnt   := 0
  shreg    := 0
  i        := 0
  eStart   := 0
  eLen     := 0
  ticks    := 0
  pre      := 0
  idx      := 0
  rev      := false
  delay    := BitVec.ofNat c.dw c.delayBase
  sw       := false
  spdLatch := false
  patLatch := false
  spdS1    := false
  spdS2    := false
  patS1    := false
  patS2    := false

/-- The model's state: the block's registers, and beside them what R20 calls a parameter of the step (`cfg`, `store`:
no step changes them) and what the environment does next (`inputs`, `drawIndex`: R43's free inputs). Log 1, 3, 4. -/
structure State where
  /-- The configuration of R7. -/
  cfg       : Config
  /-- The listed bytes of the pattern store, addresses strictly rising (R50, R55); an address it does not list holds
  `Config.freeStoreByte`. -/
  store     : List Host.Cell
  /-- The block's registers (R20). -/
  regs      : Regs cfg
  /-- The port levels of the coming clock edges, the next one first; past its end they are free draws. -/
  inputs    : List PortIn
  /-- The number of the next free draw. -/
  drawIndex : Nat
  deriving DecidableEq, Repr

/-- Why the machine stops with a fault: never. The block raises no exception and has no fault flag (R170), and
93_implementation_defined.md lists no `fault`. -/
inductive Fault where
  deriving DecidableEq, Repr

/-- Why a step has no meaning. -/
inductive Refusal where
  /-- Raised by `exec` for an operation that has no meaning yet; safe, since nothing is proved of it. No arm of
  `exec` raises it. -/
  | notModelled (mnemonic : String)
  /-- Raised by `step` when the configuration fails a check of R8: "A model refuses a configuration that fails any of
  them". Safe: the spec gives the block no meaning there (R171, U1). -/
  | malformedConfiguration
  deriving DecidableEq, Repr

/-- The machine right after reset: the reference configuration, an OPEN store, `RESET_STATE`, and free inputs. -/
def State.reset : State where
  cfg       := Config.hw
  store     := []
  regs      := Regs.reset Config.hw
  inputs    := []
  drawIndex := 0

end Sys2Proof.Machine
end

