-- ==== Sys2Proof/Machine/Operands.lean ====
section
/-! DEFINITION. The operands the operations compute from registers and configuration constants (R73, R51, R140). -/

namespace Sys2Proof.Machine

variable {c : Config}

/-- `CatLookup(j)`: entry `j`, and entry 0 for an index past the catalog (R140). The empty catalog, which R8 refuses, has
no entry 0; `(0, 0)` only makes the function total (log 9). -/
def catLookup (c : Config) (j : Nat) : Entry :=
  if j < c.nPat then c.catalog.getD j ⟨0, 0⟩ else c.catalog.headD ⟨0, 0⟩

/-- The active catalog entry, `CatLookup(idx)` (R141). -/
def Regs.activeEntry (r : Regs c) : Entry := catLookup c r.idx.toNat

/-- `a_first`, the address of the first byte of the pair, in `CW` bits (R51). -/
def Regs.aFirst (r : Regs c) : BitVec c.cw := if r.dir then r.i - 1 else r.i

/-- `a_second`, the address of the second byte of the pair, in `CW` bits (R51). -/
def Regs.aSecond (r : Regs c) : BitVec c.cw := if r.dir then r.i else r.i + 1

/-- `mem_addr`, driven in every cycle: `a_second` in LOAD_B and `a_first` elsewhere, its low `ADDR_W` bits (R51). -/
def Regs.memAddr (r : Regs c) : BitVec c.addrW :=
  (if r.S = encode .loadB then r.aSecond else r.aFirst).setWidth c.addrW

/-- `E = e_start + e_len`, in `CW` bits (R142, R45). -/
def Regs.rangeEnd (r : Regs c) : BitVec c.cw := r.eStart + r.eLen

/-- The lowest offset at which a reverse step still runs, `e_start + 2`, in `CW` bits (R142). -/
def Regs.reverseLimit (r : Regs c) : BitVec c.cw := r.eStart + 2

/-- The reverse start, `e_start + e_len - 3`, in `CW` bits (R148). -/
def Regs.reverseStart (r : Regs c) : BitVec c.cw := r.eStart + r.eLen - 3

/-- The offset of the next pair: `i + 2` forward, `i - 2` reverse, in `CW` bits (R146). -/
def Regs.nextOffset (r : Regs c) : BitVec c.cw := if r.dir then r.i - 2 else r.i + 2

/-- The tick reload, `TICK_CYCLES - 1`, in `PW` bits (R144). -/
def tickReload (c : Config) : BitVec c.pw := BitVec.ofNat c.pw (c.tickCycles - 1)

/-- `t = delay + DELAY_STEP`, in `DW + 1` bits (R124). -/
def Regs.steppedDelay (r : Regs c) : BitVec (c.dw + 1) :=
  r.delay.setWidth (c.dw + 1) + BitVec.ofNat (c.dw + 1) c.delayStep

/-- `u = idx + 1`, in `IW + 1` bits (R125). -/
def Regs.steppedIdx (r : Regs c) : BitVec (c.iw + 1) := r.idx.setWidth (c.iw + 1) + 1

end Sys2Proof.Machine
end

