-- ==== Sys2Proof/Machine/Ops.lean ====
section
/-! DEFINITION. The shared operations: reading the pattern store, the input ports, the synchroniser, the clock edge, and
the load of `RESET_STATE`. The block takes no exception and returns from none (R170, R174, R175); the only events that
redirect control beside the state rules, reset and reserved-code recovery, are the one operation
`State.loadResetState`. -/

namespace Sys2Proof.Machine

variable {c : Config}

/-- The listed byte of an address, if the list has one. -/
def Memory.lookup : List Host.Cell → Nat → Option Byte
  | [], _ => none
  | (a, b) :: rest, x => if x = a then some b else Memory.lookup rest x

/-- Addresses strictly rise along the list. -/
def Memory.rising : List Host.Cell → Bool
  | [] => true
  | [_] => true
  | x :: y :: rest => decide (x.1 < y.1) && Memory.rising (y :: rest)

/-- The canonical form: addresses strictly rising and inside the address space of `2^ADDR_W` bytes (R50). An address
the list leaves out reads as a free value, which no listed byte can be told equal to (log 3). -/
def Memory.wf (c : Config) (m : List Host.Cell) : Bool :=
  Memory.rising m && m.all fun x => decide (x.1 < 2 ^ c.addrW)

/-- `STORE[a]` (R50, R55): the listed byte, or the free value of the address. -/
def State.storeByte (s : State) (a : Nat) : Byte := (Memory.lookup s.store a).getD (Config.freeStoreByte a)

/-- `MemRead(a, 1)`: the byte the store returns for the low `ADDR_W` bits of `a`, which are what `mem_addr` carries
(R51, R52). A read has no side effect (R53). -/
def State.memRead (s : State) (a : BitVec s.cfg.cw) : Byte := s.storeByte (a.setWidth s.cfg.addrW).toNat

/-- The input port levels at the edge that ends the `j`-th cycle from now: from the list of coming inputs, or a free
draw past its end (R43). -/
def State.portInAt (s : State) (j : Nat) : PortIn := s.inputs.getD j (Config.freeInput (s.drawIndex + j))

/-- The input port levels at the edge that ends the current cycle. -/
def State.portIn (s : State) : PortIn := s.portInAt 0

/-- The synchroniser rule, which runs in every cycle (R120): each second stage takes the old first stage. -/
def Regs.synchronise (r : Regs c) (p : PortIn) : Regs c :=
  { r with spdS1 := p.btnSpeed, spdS2 := r.spdS1, patS1 := p.btnPattern, patS2 := r.patS1 }

/-- The state after a rising edge that leaves the registers `r`: the edge's inputs are spent, and neither the
configuration nor the store changes (R20, R65). -/
def State.afterEdge (s : State) (r : Regs s.cfg) : State :=
  { s with regs := r, inputs := s.inputs.drop 1, drawIndex := s.drawIndex + 1 }

/-- The rising edge that ends a cycle with `rst == 0` and a legal code: the state's rule leaves `r`, and the synchroniser
runs at the same edge (R11, R120, R173). -/
def State.clockEdge (s : State) (r : Regs s.cfg) : Host.Outcome State Fault Refusal :=
  .next (s.afterEdge (r.synchronise s.portIn))

/-- The load of `RESET_STATE` into every register, the synchronisers among them: a reset edge (R190) and reserved-code
recovery (R74). -/
def State.loadResetState (s : State) : Host.Outcome State Fault Refusal := .next (s.afterEdge (Regs.reset s.cfg))

end Sys2Proof.Machine
end

