-- ==== Sys2Proof/Machine/Reserved.lean ====
section
/-! DEFINITION. The three reserved codes, which recover to `RESET_STATE` (30_encoding.md R74). -/

namespace Sys2Proof.Machine

/-- Code 0xD (R74). -/
def execReservedD (s : State) : Host.Outcome State Fault Refusal := s.loadResetState

/-- Code 0xE (R74). -/
def execReservedE (s : State) : Host.Outcome State Fault Refusal := s.loadResetState

/-- Code 0xF (R74). -/
def execReservedF (s : State) : Host.Outcome State Fault Refusal := s.loadResetState

end Sys2Proof.Machine
end

