-- ==== Sys2Proof/Machine/Flags.lean ====
section
/-! DEFINITION. The conditions the rules compute. None is stored: each acts through the next state or the value written
(R40). -/

namespace Sys2Proof.Machine

variable {c : Config}

/-- `fire_spd`: the speed button's sample is 1 and its latch is 0 (R121). -/
def Regs.fireSpd (r : Regs c) : Bool := r.spdS2 && !r.spdLatch

/-- `fire_pat`: the pattern button's sample is 1 and its latch is 0 (R121). -/
def Regs.firePat (r : Regs c) : Bool := r.patS2 && !r.patLatch

/-- `t >= DELAY_WRAP`: the stepped level wraps to the base (R124). -/
def Regs.delayWraps (r : Regs c) : Bool := decide (c.delayWrap ≤ r.steppedDelay.toNat)

/-- `u >= N_PAT`: the stepped index wraps to 0 (R125). -/
def Regs.idxWraps (r : Regs c) : Bool := decide (c.nPat ≤ r.steppedIdx.toNat)

/-- `go`: the scan goes on to another pair (R142). -/
def Regs.go (r : Regs c) : Bool :=
  if r.dir then decide (r.reverseLimit ≤ r.i) && !r.sw else decide (r.i < r.rangeEnd) && !r.sw

/-- `bitcnt == 7`: the bit on the line is the byte's last (R103). -/
def Regs.lastBit (r : Regs c) : Bool := r.bitcnt == 7

/-- `pre != 0`: the current tick has more cycles (R145). -/
def Regs.tickRuns (r : Regs c) : Bool := r.pre != 0

/-- `ticks <= 1`: the current tick is the last; 0 counts as 1 (R145). -/
def Regs.lastTick (r : Regs c) : Bool := decide (r.ticks.toNat ≤ 1)

/-- `dir == 0 and rev == 1`: a reverse pass follows this pass (R147). -/
def Regs.reverseFollows (r : Regs c) : Bool := !r.dir && r.rev

end Sys2Proof.Machine
end

