-- ==== Sys2Proof/Machine/Debouncer.lean ====
section
/-! DEFINITION. The poll procedure and the two button actions (41_debouncer.md R121 to R125). They are called by POLL1,
POLL2 and POLL3 and have no code of their own. -/

namespace Sys2Proof.Machine

variable {c : Config}

/-- `SpeedAction()`: step the delay level and wrap it (R124). -/
def Regs.speedAction (r : Regs c) : Regs c :=
  { r with delay := if r.delayWraps then BitVec.ofNat c.dw c.delayBase else r.steppedDelay.setWidth c.dw }

/-- `PatternAction()`: toggle reversing; when it was set, also advance the pattern and request a switch (R125). -/
def Regs.patternAction (r : Regs c) : Regs c :=
  if r.rev then
    { r with rev := false, idx := if r.idxWraps then 0 else r.steppedIdx.setWidth c.iw, sw := true }
  else
    { r with rev := true }

/-- The pattern debouncer's part of a poll (R121, R122). -/
def Regs.pollPattern (r : Regs c) : Regs c :=
  if r.firePat then ({ r with patLatch := true } : Regs c).patternAction
  else if r.patS2 then r
  else { r with patLatch := false }

/-- `Poll()`: the speed debouncer first; the pattern debouncer only when the speed debouncer does not fire (R121,
R123). -/
def Regs.poll (r : Regs c) : Regs c :=
  if r.fireSpd then ({ r with spdLatch := true } : Regs c).speedAction
  else if r.spdS2 then r.pollPattern
  else ({ r with spdLatch := false } : Regs c).pollPattern

end Sys2Proof.Machine
end

