-- ==== Sys2Proof/Machine/Sequencer.lean ====
section
/-! DEFINITION. The eight sequencer operations (42_sequencer.md R141 to R148). Each has its rule, the registers the
state's rule alone leaves, and its meaning, that rule at a clock edge. -/

namespace Sys2Proof.Machine

variable {c : Config}

/-- POLL2's loads: the delay counter from the registers the poll left, the prescaler with the tick reload (R144). -/
def Regs.loadDelayCounter (r : Regs c) : Regs c :=
  { r with ticks := r.delay, pre := tickReload c, S := encode .delay }

/-- FWD_INIT's rule (R141). -/
def State.fwdInitRule (s : State) : Regs s.cfg :=
  { s.regs with
    eStart := BitVec.ofNat s.cfg.cw s.regs.activeEntry.start
    eLen   := BitVec.ofNat s.cfg.cw s.regs.activeEntry.len
    i      := BitVec.ofNat s.cfg.cw s.regs.activeEntry.start
    dir    := false
    S      := encode .check }

/-- CHECK's rule (R142). -/
def State.checkRule (s : State) : Regs s.cfg :=
  { s.regs with S := encode (if s.regs.go then .loadA else .passEnd) }

/-- POLL1's rule (R143). -/
def State.poll1Rule (s : State) : Regs s.cfg := { s.regs.poll with S := encode .poll2 }

/-- POLL2's rule (R144). -/
def State.poll2Rule (s : State) : Regs s.cfg := s.regs.poll.loadDelayCounter

/-- DELAY's rule: one cycle of the delay counter (R145). -/
def State.delayRule (s : State) : Regs s.cfg :=
  if s.regs.tickRuns then { s.regs with pre := s.regs.pre - 1 }
  else if s.regs.lastTick then { s.regs with S := encode .poll3 }
  else { s.regs with ticks := s.regs.ticks - 1, pre := tickReload s.cfg }

/-- POLL3's rule (R146). -/
def State.poll3Rule (s : State) : Regs s.cfg :=
  { s.regs.poll with i := s.regs.nextOffset, S := encode .check }

/-- PASS_END's rule (R147). -/
def State.passEndRule (s : State) : Regs s.cfg :=
  if s.regs.reverseFollows then { s.regs with S := encode .revInit }
  else { s.regs with sw := false, S := encode .fwdInit }

/-- REV_INIT's rule (R148). -/
def State.revInitRule (s : State) : Regs s.cfg :=
  { s.regs with i := s.regs.reverseStart, dir := true, S := encode .check }

/-- FWD_INIT (R141). -/
def execFwdInit (s : State) : Host.Outcome State Fault Refusal := s.clockEdge s.fwdInitRule

/-- CHECK (R142). -/
def execCheck (s : State) : Host.Outcome State Fault Refusal := s.clockEdge s.checkRule

/-- POLL1 (R143). -/
def execPoll1 (s : State) : Host.Outcome State Fault Refusal := s.clockEdge s.poll1Rule

/-- POLL2 (R144). -/
def execPoll2 (s : State) : Host.Outcome State Fault Refusal := s.clockEdge s.poll2Rule

/-- DELAY (R145). -/
def execDelay (s : State) : Host.Outcome State Fault Refusal := s.clockEdge s.delayRule

/-- POLL3 (R146). -/
def execPoll3 (s : State) : Host.Outcome State Fault Refusal := s.clockEdge s.poll3Rule

/-- PASS_END (R147). -/
def execPassEnd (s : State) : Host.Outcome State Fault Refusal := s.clockEdge s.passEndRule

/-- REV_INIT (R148). -/
def execRevInit (s : State) : Host.Outcome State Fault Refusal := s.clockEdge s.revInitRule

end Sys2Proof.Machine
end

