-- ==== Sys2Proof/Machine/Serializer.lean ====
section
/-! DEFINITION. The five serializer operations (40_serializer.md R100 to R104). Each has its rule, the registers the
state's rule alone leaves, and its meaning, that rule at a clock edge. -/

namespace Sys2Proof.Machine

variable {c : Config}

/-- Load byte `b` as byte `k` of the pair and start sending it (R100, R101). -/
def Regs.loadShifter (r : Regs c) (b : Byte) (k : Bool) : Regs c :=
  { r with shreg := b, bitcnt := 0, k := k, S := encode .shiftLo }

/-- The successor of SHIFT_HI (R103). -/
def Regs.afterBit (r : Regs c) : Instr :=
  if r.lastBit then (if r.k then .latch else .loadB) else .shiftLo

/-- LOAD_A's rule (R100). -/
def State.loadARule (s : State) : Regs s.cfg := s.regs.loadShifter (s.memRead s.regs.aFirst) false

/-- LOAD_B's rule (R101). -/
def State.loadBRule (s : State) : Regs s.cfg := s.regs.loadShifter (s.memRead s.regs.aSecond) true

/-- SHIFT_LO's rule (R102). -/
def State.shiftLoRule (s : State) : Regs s.cfg := { s.regs with S := encode .shiftHi }

/-- SHIFT_HI's rule (R103). -/
def State.shiftHiRule (s : State) : Regs s.cfg :=
  { s.regs with shreg := s.regs.shreg >>> 1, bitcnt := s.regs.bitcnt + 1, S := encode s.regs.afterBit }

/-- LATCH's rule (R104). -/
def State.latchRule (s : State) : Regs s.cfg := { s.regs with S := encode .poll1 }

/-- LOAD_A (R100). -/
def execLoadA (s : State) : Host.Outcome State Fault Refusal := s.clockEdge s.loadARule

/-- LOAD_B (R101). -/
def execLoadB (s : State) : Host.Outcome State Fault Refusal := s.clockEdge s.loadBRule

/-- SHIFT_LO (R102). -/
def execShiftLo (s : State) : Host.Outcome State Fault Refusal := s.clockEdge s.shiftLoRule

/-- SHIFT_HI (R103). -/
def execShiftHi (s : State) : Host.Outcome State Fault Refusal := s.clockEdge s.shiftHiRule

/-- LATCH (R104). -/
def execLatch (s : State) : Host.Outcome State Fault Refusal := s.clockEdge s.latchRule

end Sys2Proof.Machine
end

