-- ==== Sys2Proof/Machine/Dispatch.lean ====
section
/-! DEFINITION. What each operation does at the rising edge that ends its cycle when `rst == 0` (R12, R173). -/

namespace Sys2Proof.Machine

def exec (i : Instr) (s : State) : Host.Outcome State Fault Refusal :=
  match i with
  | .fwdInit => Sys2Proof.Machine.execFwdInit s
  | .check => Sys2Proof.Machine.execCheck s
  | .loadA => Sys2Proof.Machine.execLoadA s
  | .loadB => Sys2Proof.Machine.execLoadB s
  | .shiftLo => Sys2Proof.Machine.execShiftLo s
  | .shiftHi => Sys2Proof.Machine.execShiftHi s
  | .latch => Sys2Proof.Machine.execLatch s
  | .poll1 => Sys2Proof.Machine.execPoll1 s
  | .poll2 => Sys2Proof.Machine.execPoll2 s
  | .delay => Sys2Proof.Machine.execDelay s
  | .poll3 => Sys2Proof.Machine.execPoll3 s
  | .passEnd => Sys2Proof.Machine.execPassEnd s
  | .revInit => Sys2Proof.Machine.execRevInit s
  | .reservedD => Sys2Proof.Machine.execReservedD s
  | .reservedE => Sys2Proof.Machine.execReservedE s
  | .reservedF => Sys2Proof.Machine.execReservedF s

end Sys2Proof.Machine
end

