-- ==== Sys2Proof/Machine/ConfigChecks.lean ====
section
/-! DEFINITION. The named checks of R8, one definition each, and the delay levels of R9. -/

namespace Sys2Proof.Machine

/-- `wf_npat`: `N_PAT >= 1` and `N_PAT <= 2^IW`. -/
def wfNPat (c : Config) : Bool := decide (1 ≤ c.nPat) && decide (c.nPat ≤ 2 ^ c.iw)

/-- `wf_len_even`: every `CATALOG[j].len` is even. -/
def wfLenEven (c : Config) : Bool := c.catalog.all fun e => decide (e.len % 2 = 0)

/-- `wf_len_min`: every `CATALOG[j].len >= 4`. -/
def wfLenMin (c : Config) : Bool := c.catalog.all fun e => decide (4 ≤ e.len)

/-- `wf_in_store`: every `CATALOG[j].start + CATALOG[j].len <= STORE_SIZE`. -/
def wfInStore (c : Config) : Bool := c.catalog.all fun e => decide (e.start + e.len ≤ c.storeSize)

/-- `wf_store_addr`: `STORE_SIZE <= 2^ADDR_W`. -/
def wfStoreAddr (c : Config) : Bool := decide (c.storeSize ≤ 2 ^ c.addrW)

/-- `wf_delay`: `1 <= DELAY_BASE < DELAY_WRAP`, `DELAY_STEP >= 1`, and `DELAY_WRAP + DELAY_STEP < 2^(DW+1)`. -/
def wfDelay (c : Config) : Bool :=
  decide (1 ≤ c.delayBase) && decide (c.delayBase < c.delayWrap) && decide (1 ≤ c.delayStep) &&
    decide (c.delayWrap + c.delayStep < 2 ^ (c.dw + 1))

/-- `wf_delay_reg`: `DELAY_WRAP - 1 < 2^DW`. -/
def wfDelayReg (c : Config) : Bool := decide (c.delayWrap - 1 < 2 ^ c.dw)

/-- `wf_tick`: `TICK_CYCLES >= 1`. The check's other half, `TICK_CYCLES <= 2^PW`, holds of every configuration, since
`PW` is derived as the least width for which it does (R7): `Laws.tickCycles_le_two_pow_pw`. -/
def wfTick (c : Config) : Bool := decide (1 ≤ c.tickCycles)

/-- R9: `d` is in `LEVELS`. -/
def isLevel (c : Config) (d : Nat) : Prop := ∃ m, d = c.delayBase + m * c.delayStep ∧ d < c.delayWrap

end Sys2Proof.Machine
end

