-- ==== Sys2Proof/WellFormed.lean ====
section
/-! DEFINITION. What is well formed on this hardware: a configuration that passes every check of R8. An operation has no
operand (R70), so every term of `Instr` is well formed and there is nothing to check of one. -/

namespace Sys2Proof

/-- "A configuration is well formed when every check below holds" (R8). -/
def Config.wf (c : Config) : Bool :=
  Machine.wfNPat c && Machine.wfLenEven c && Machine.wfLenMin c && Machine.wfInStore c && Machine.wfStoreAddr c &&
    Machine.wfDelay c && Machine.wfDelayReg c && Machine.wfTick c

end Sys2Proof
end

