-- ==== Sys2Proof/Machine/Fetch.lean ====
section
/-! DEFINITION. How a step finds the operation of the cycle, and how an operation is placed to be the next one. -/

namespace Sys2Proof.Machine

/-- The operation of the current cycle: the state code selects it (R21, R71). -/
def State.currentInstr (s : State) : Instr := decodeCode s.regs.S

/-- The edge that ends the current cycle, under a well-formed configuration: reset overrides everything, else the
operation the code selects (R173). -/
def State.edge (s : State) : Host.Outcome State Fault Refusal :=
  if s.portIn.rst then s.loadResetState else exec s.currentInstr s

/-- The state with `code` in `S` and the coming edge's `rst` low, its button levels kept: what it takes for the very next
step to run that operation (log 6). -/
def State.placeCode (s : State) (code : Code) : State :=
  { s with
    regs := { s.regs with S := code }
    inputs := { s.portIn with rst := false } :: s.inputs.drop 1 }

end Sys2Proof.Machine
end

