-- ==== Sys2Proof/Machine/Step.lean ====
section
/-! DEFINITION. One step: one clock cycle, from the rising edge that starts it to the one that ends it (R11, R202). -/

namespace Sys2Proof.Machine

/-- One clock cycle. A configuration that fails R8 has no step (R8, R171). -/
def step (s : State) : Host.Outcome State Fault Refusal :=
  if s.cfg.wf then s.edge else .refused .malformedConfiguration

/-- The state in which the very next step runs the instruction whose bits are `w` (log 6). -/
def State.withFetchWord (s : State) (nbits w : Nat) : State := s.placeCode (BitVec.ofNat 4 (w % 2 ^ nbits))

end Sys2Proof.Machine
end

