-- ==== Sys2Proof/Machine/Observe.lean ====
section
/-! DEFINITION. What the environment sees: the output ports (R38), the observation and the trace of a run (R13, R77), and
the reference observer of the serial line (R108). -/

namespace Sys2Proof.Machine

/-- The four output ports in one cycle (R39). `memAddr` is the port read as an unsigned number (R10). -/
structure Outputs where
  serData : Bool
  serClk  : Bool
  latch   : Bool
  memAddr : Nat
  deriving DecidableEq, Repr

/-- The output function: a function of the current state alone (R38). -/
def State.outputs (s : State) : Outputs where
  serData := s.regs.shreg[0]
  serClk  := s.regs.S == encode .shiftHi
  latch   := s.regs.S == encode .latch
  memAddr := s.regs.memAddr.toNat

/-- `n` cycles from a state. -/
def cycles : Nat → State → Host.Outcome State Fault Refusal
  | 0, s => .next s
  | n + 1, s =>
    match step s with
    | .next t => cycles n t
    | .fault f => .fault f
    | .refused f => .refused f

/-- The observation of `n` cycles from a state: one tuple of outputs a cycle (R13). -/
def observe : Nat → State → List Outputs
  | 0, _ => []
  | n + 1, s =>
    s.outputs ::
      match step s with
      | .next t => observe n t
      | .fault _ => []
      | .refused _ => []

/-- The trace of `n` cycles from a state: one operation a cycle (R77). -/
def trace : Nat → State → List Instr
  | 0, _ => []
  | n + 1, s =>
    s.currentInstr ::
      match step s with
      | .next t => trace n t
      | .fault _ => []
      | .refused _ => []

/-- The reference observer: the line levels of the cycle before, the bits recorded so far, oldest first, and the frames
reported so far (R108). -/
structure Observer where
  serClk : Bool
  latch  : Bool
  bits   : List Bool
  frames : List (Byte × Byte)
  deriving DecidableEq, Repr

/-- Nothing recorded, the lines low (log 10). -/
def Observer.start : Observer := ⟨false, false, [], []⟩

/-- `sum q_{j+1} * 2^j`: the first bit recorded is the least significant (R108). -/
def bitsValue : List Bool → Nat
  | [] => 0
  | q :: qs => q.toNat + 2 * bitsValue qs

/-- The frame `(f0, f1)` of the last 16 recorded bits; no frame before 16 bits are recorded (R108, log 10). -/
def frameOf (bits : List Bool) : Option (Byte × Byte) :=
  if 16 ≤ bits.length then
    let q := bits.drop (bits.length - 16)
    some (BitVec.ofNat 8 (bitsValue (q.take 8)), BitVec.ofNat 8 (bitsValue (q.drop 8)))
  else none

/-- One cycle of the observer: a rising `ser_clk` records `ser_data`, a rising `latch` reports a frame (R108). -/
def Observer.sample (o : Observer) (x : Outputs) : Observer :=
  let bits := if x.serClk && !o.serClk then o.bits ++ [x.serData] else o.bits
  { serClk := x.serClk
    latch  := x.latch
    bits   := bits
    frames := if x.latch && !o.latch then o.frames ++ (frameOf bits).toList else o.frames }

/-- The frames an observation commits (R108). -/
def frames (xs : List Outputs) : List (Byte × Byte) := (xs.foldl Observer.sample Observer.start).frames

end Sys2Proof.Machine
end

