-- ==== Sys2Proof/Safety.lean ====
section
/-! DEFINITION. The terms claims are stated in: the checks of R8 spelled out, what an operation leaves unchanged, the
result of a poll as the rules give it, the invariants of R45, and conditions on the inputs of a run. -/

namespace Sys2Proof.Machine

variable {c : Config}

/-! ## Configuration -/

/-- The checks of R8, spelled out. -/
structure WellFormedConfig (c : Config) : Prop where
  /-- `wf_npat` -/
  nPat      : 1 ≤ c.nPat ∧ c.nPat ≤ 2 ^ c.iw
  /-- `wf_len_even` -/
  lenEven   : ∀ e ∈ c.catalog, e.len % 2 = 0
  /-- `wf_len_min` -/
  lenMin    : ∀ e ∈ c.catalog, 4 ≤ e.len
  /-- `wf_in_store` -/
  inStore   : ∀ e ∈ c.catalog, e.start + e.len ≤ c.storeSize
  /-- `wf_store_addr` -/
  storeAddr : c.storeSize ≤ 2 ^ c.addrW
  /-- `wf_delay` -/
  delay     : 1 ≤ c.delayBase ∧ c.delayBase < c.delayWrap ∧ 1 ≤ c.delayStep ∧
    c.delayWrap + c.delayStep < 2 ^ (c.dw + 1)
  /-- `wf_delay_reg` -/
  delayReg  : c.delayWrap - 1 < 2 ^ c.dw
  /-- `wf_tick` -/
  tick      : 1 ≤ c.tickCycles ∧ c.tickCycles ≤ 2 ^ c.pw

/-- `e` is `CatLookup(j)` (R140). -/
def IsCatLookup (c : Config) (j : Nat) (e : Entry) : Prop :=
  (if j < c.nPat then c.catalog[j]? else c.catalog[0]?) = some e

/-! ## One cycle -/

/-- The state `n` cycles on that holds the registers `r`: the configuration and the store as before, `n` inputs spent. -/
def State.later (s : State) (n : Nat) (r : Regs s.cfg) : State :=
  { cfg := s.cfg, store := s.store, regs := r, inputs := s.inputs.drop n, drawIndex := s.drawIndex + n }

/-- The synchroniser rule ran from `r` to `r'` with the port levels `p` (R120). -/
def Synchronised (r : Regs c) (p : PortIn) (r' : Regs c) : Prop :=
  r'.spdS1 = p.btnSpeed ∧ r'.spdS2 = r.spdS1 ∧ r'.patS1 = p.btnPattern ∧ r'.patS2 = r.patS1

/-- Operation `i` completes in `s`: it answers a next state with registers `r` of which `P` holds, the synchroniser rule
ran beside it, and every byte of the store reads as before. -/
def Completes (i : Instr) (s : State) (P : Regs s.cfg → Prop) : Prop :=
  ∃ r : Regs s.cfg, exec i s = .next (s.later 1 r) ∧ (∀ a, (s.later 1 r).storeByte a = s.storeByte a) ∧
    Synchronised s.regs s.portIn r ∧ P r

/-- The scan registers are unchanged: direction, offset, latched entry. -/
def SameScan (r r' : Regs c) : Prop := r'.dir = r.dir ∧ r'.i = r.i ∧ r'.eStart = r.eStart ∧ r'.eLen = r.eLen

/-- The serializer's registers are unchanged. -/
def SameShifter (r r' : Regs c) : Prop := r'.k = r.k ∧ r'.bitcnt = r.bitcnt ∧ r'.shreg = r.shreg

/-- The delay counter is unchanged. -/
def SameTimer (r r' : Regs c) : Prop := r'.ticks = r.ticks ∧ r'.pre = r.pre

/-- The playback state of R37 is unchanged. -/
def SamePlayback (r r' : Regs c) : Prop := r'.idx = r.idx ∧ r'.rev = r.rev ∧ r'.delay = r.delay ∧ r'.sw = r.sw

/-- The debouncer latches are unchanged. -/
def SameLatches (r r' : Regs c) : Prop := r'.spdLatch = r.spdLatch ∧ r'.patLatch = r.patLatch

/-- Every register holds its `RESET_STATE` value (R44's table). -/
def IsResetState (r : Regs c) : Prop :=
  r.S = 0x0#4 ∧ r.dir = false ∧ r.k = false ∧ r.bitcnt = 0 ∧ r.shreg = 0x00#8 ∧ r.i = 0 ∧ r.eStart = 0 ∧ r.eLen = 0 ∧
    r.ticks = 0 ∧ r.pre = 0 ∧ r.idx = 0 ∧ r.rev = false ∧ r.delay = BitVec.ofNat c.dw c.delayBase ∧ r.sw = false ∧
    r.spdLatch = false ∧ r.patLatch = false ∧ r.spdS1 = false ∧ r.spdS2 = false ∧ r.patS1 = false ∧ r.patS2 = false

/-! ## Polls -/

/-- The delay level after a speed action from `r` (R124), as a number: `t` has `DW + 1` bits, the register `DW`. -/
def levelAfterSpeedAction (r : Regs c) : Nat :=
  let t := (r.delay.toNat + c.delayStep) % 2 ^ (c.dw + 1)
  if c.delayWrap ≤ t then c.delayBase % 2 ^ c.dw else t % 2 ^ c.dw

/-- The pattern index after an advance from `r` (R125), as a number: `idx + 1` fits its `IW + 1` bits. -/
def idxAfterAdvance (r : Regs c) : Nat :=
  if c.nPat ≤ r.idx.toNat + 1 then 0 else (r.idx.toNat + 1) % 2 ^ c.iw

/-- A speed action led from `r` to `r'` (R124). -/
def SpeedActed (r r' : Regs c) : Prop := r'.delay.toNat = levelAfterSpeedAction r

/-- A pattern action led from `r` to `r'` (R125). -/
def PatternActed (r r' : Regs c) : Prop :=
  if r.rev then r'.rev = false ∧ r'.idx.toNat = idxAfterAdvance r ∧ r'.sw = true
  else r'.rev = true ∧ r'.idx = r.idx ∧ r'.sw = r.sw

/-- One poll led from `r` to `r'` (R121, R122, R123): what it does to the latches and the playback state. -/
def Polled (r r' : Regs c) : Prop :=
  if r.spdS2 = true ∧ r.spdLatch = false then
    r'.spdLatch = true ∧ SpeedActed r r' ∧ r'.patLatch = r.patLatch ∧ r'.idx = r.idx ∧ r'.rev = r.rev ∧ r'.sw = r.sw
  else
    r'.spdLatch = (if r.spdS2 then r.spdLatch else false) ∧ r'.delay = r.delay ∧
      if r.patS2 = true ∧ r.patLatch = false then r'.patLatch = true ∧ PatternActed r r'
      else
        r'.patLatch = (if r.patS2 then r.patLatch else false) ∧ r'.idx = r.idx ∧ r'.rev = r.rev ∧ r'.sw = r.sw

/-- A sequence of polls, each with its samples `(spd_s2, pat_s2)`. -/
def polls (r : Regs c) (samples : List (Bool × Bool)) : Regs c :=
  samples.foldl (fun r x => ({ r with spdS2 := x.1, patS2 := x.2 } : Regs c).poll) r

/-! ## The invariants of R45 -/

/-- The codes of a step after its CHECK: LOAD_A to POLL3 (R45 INV6, INV8). -/
def InStep (w : Code) : Prop := 0x2 ≤ w.toNat ∧ w.toNat ≤ 0xA

/-- SHIFT_LO or SHIFT_HI: a bit is on the line. -/
def Shifting (w : Code) : Prop := w = 0x4#4 ∨ w = 0x5#4

/-- The byte of the current pair that `k` selects, read from the store (R51). -/
def State.currentByte (s : State) : Byte := s.memRead (if s.regs.k then s.regs.aSecond else s.regs.aFirst)

/-- The invariants of R45 with the facts of R105, R141 and C4 that their proofs rest on. INV10 and INV11 speak of the
byte last loaded; a state holds no history, so `shifting` names that byte by its address, which R100 and R101 give it
(log 11). -/
structure Inv (s : State) : Prop where
  /-- The configuration passes R8. -/
  config     : s.cfg.wf = true
  /-- The listed bytes of the store are in canonical form. -/
  storeForm  : Memory.wf s.cfg s.store = true
  /-- INV1: `S` is in 0x0 to 0xC. -/
  code       : s.regs.S.toNat ≤ 0xC
  /-- INV2: `idx < N_PAT`. -/
  index      : s.regs.idx.toNat < s.cfg.nPat
  /-- INV3: `delay` is in `LEVELS`. -/
  level      : isLevel s.cfg s.regs.delay.toNat
  /-- INV4: past the first FWD_INIT the latched entry is a catalog entry. -/
  entry      : (s.regs.S = 0x0#4 ∧ s.regs.eStart = 0 ∧ s.regs.eLen = 0) ∨
    ∃ e ∈ s.cfg.catalog, s.regs.eStart.toNat = e.start ∧ s.regs.eLen.toNat = e.len
  /-- INV5. -/
  fwdCheck   : s.regs.dir = false → s.regs.S = 0x1#4 →
    s.regs.eStart.toNat ≤ s.regs.i.toNat ∧ s.regs.i.toNat ≤ s.regs.rangeEnd.toNat ∧
      (s.regs.i.toNat - s.regs.eStart.toNat) % 2 = 0
  /-- INV6. -/
  fwdStep    : s.regs.dir = false → InStep s.regs.S → s.regs.i.toNat + 2 ≤ s.regs.rangeEnd.toNat
  /-- INV7. -/
  revCheck   : s.regs.dir = true → s.regs.S = 0x1#4 →
    s.regs.eStart.toNat + 1 ≤ s.regs.i.toNat ∧ s.regs.i.toNat + 3 ≤ s.regs.rangeEnd.toNat ∧
      (s.regs.i.toNat - s.regs.eStart.toNat) % 2 = 1
  /-- INV8. -/
  revStep    : s.regs.dir = true → InStep s.regs.S → s.regs.eStart.toNat + 3 ≤ s.regs.i.toNat
  /-- INV9. -/
  counter    : s.regs.S = 0x9#4 →
    1 ≤ s.regs.ticks.toNat ∧ s.regs.ticks.toNat ≤ s.regs.delay.toNat ∧ s.regs.pre.toNat ≤ s.cfg.tickCycles - 1
  /-- INV10 and INV11. -/
  shifting   : Shifting s.regs.S → s.regs.shreg = s.currentByte >>> s.regs.bitcnt.toNat
  /-- A forward step keeps the parity CHECK saw. -/
  fwdParity  : s.regs.dir = false → InStep s.regs.S →
    s.regs.eStart.toNat ≤ s.regs.i.toNat ∧ (s.regs.i.toNat - s.regs.eStart.toNat) % 2 = 0
  /-- A reverse step keeps the parity and the bound CHECK saw. -/
  revParity  : s.regs.dir = true → InStep s.regs.S →
    s.regs.i.toNat + 3 ≤ s.regs.rangeEnd.toNat ∧ (s.regs.i.toNat - s.regs.eStart.toNat) % 2 = 1
  /-- R105: outside SHIFT_LO and SHIFT_HI the shift register is empty. -/
  idle       : ¬ Shifting s.regs.S → s.regs.shreg = 0
  /-- R101: LOAD_B follows a first byte. -/
  firstByte  : s.regs.S = 0x3#4 → s.regs.k = false
  /-- R104: LATCH follows a second byte. -/
  secondByte : s.regs.S = 0x6#4 → s.regs.k = true
  /-- R141: `sw` is 0 on entry to FWD_INIT. -/
  restart    : s.regs.S = 0x0#4 → s.regs.sw = false
  /-- R142: `sw` is 0 while a pair is sent, up to the poll after its latch. -/
  sending    : 0x2 ≤ s.regs.S.toNat → s.regs.S.toNat ≤ 0x7 → s.regs.sw = false
  /-- C4: while no switch is requested, the latched entry is the active one. -/
  active     : s.regs.sw = false → s.regs.S ≠ 0x0#4 →
    ∃ e, IsCatLookup s.cfg s.regs.idx.toNat e ∧ s.regs.eStart.toNat = e.start ∧ s.regs.eLen.toNat = e.len

/-! ## Runs -/

/-- The successors of an operation (R42). -/
def successors : Instr → List Code
  | .fwdInit   => [0x1#4]
  | .check     => [0x2#4, 0xB#4]
  | .loadA     => [0x4#4]
  | .loadB     => [0x4#4]
  | .shiftLo   => [0x5#4]
  | .shiftHi   => [0x4#4, 0x3#4, 0x6#4]
  | .latch     => [0x7#4]
  | .poll1     => [0x8#4]
  | .poll2     => [0x9#4]
  | .delay     => [0x9#4, 0xA#4]
  | .poll3     => [0x1#4]
  | .passEnd   => [0xC#4, 0x0#4]
  | .revInit   => [0x1#4]
  | .reservedD => [0x0#4]
  | .reservedE => [0x0#4]
  | .reservedF => [0x0#4]

/-- Whenever a step without a reset leaves code `w` in `S`, `P` held of the state before it. -/
def ReachedOnlyFrom (w : Code) (P : State → Prop) : Prop :=
  ∀ (s : State) (r : Regs s.cfg), s.portIn.rst = false → step s = .next (s.later 1 r) → r.S = w → P s

/-- The poll of this cycle performs the pattern action that advances the pattern and requests a switch (R123, R125). -/
def RequestsSwitch (r : Regs c) : Prop :=
  ¬ (r.spdS2 = true ∧ r.spdLatch = false) ∧ r.patS2 = true ∧ r.patLatch = false ∧ r.rev = true

/-- The cycle `j` cycles from now is a poll that requests a switch. -/
def SwitchAt (s : State) (j : Nat) : Prop :=
  ∃ t, cycles j s = .next t ∧ (t.regs.S = 0x7#4 ∨ t.regs.S = 0x8#4 ∨ t.regs.S = 0xA#4) ∧ RequestsSwitch t.regs

/-- No reset at any of the next `n` edges. -/
def NoReset (s : State) (n : Nat) : Prop := ∀ j < n, (s.portInAt j).rst = false

/-- No reset and no button at any of the next `n` edges, and none on its way through the synchronisers. -/
def Quiet (s : State) (n : Nat) : Prop :=
  (∀ j < n, s.portInAt j = ⟨false, false, false⟩) ∧
    s.regs.spdS1 = false ∧ s.regs.spdS2 = false ∧ s.regs.patS1 = false ∧ s.regs.patS2 = false

/-- The eight bits of a byte, two cycles each (R78). -/
def byteTrace : List Instr := (List.replicate 8 [Instr.shiftLo, Instr.shiftHi]).flatten

/-- `STEP` with a delay of `n` cycles (R82). -/
def stepTrace (n : Nat) : List Instr :=
  [.check, .loadA] ++ byteTrace ++ [.loadB] ++ byteTrace ++ [.latch, .poll1, .poll2] ++ List.replicate n .delay ++
    [.poll3]

/-- The cycles of one step for each delay level of `ds` (R153). -/
def stepsLength (c : Config) (ds : List Nat) : Nat := (ds.map fun d => 39 + d * c.tickCycles).sum

/-- One `STEP` for each delay level of `ds` (R82). -/
def stepsTrace (c : Config) (ds : List Nat) : List Instr := (ds.map fun d => stepTrace (d * c.tickCycles)).flatten

/-- A pass of at most `n` pairs runs from `s` to the registers `r`: it starts with the operation `start`, makes one step
for each delay level of `ds`, shows the pairs `pair 0`, `pair 1`, ... and ends at its PASS_END. It stops short only
after the step in which a switch was requested (R149, R150). -/
structure Passes (s : State) (start : Instr) (n : Nat) (pair : Nat → Byte × Byte) (ds : List Nat) (r : Regs s.cfg) :
    Prop where
  /-- No more than `n` steps. -/
  steps      : ds.length ≤ n
  /-- Each step's delay is a level. -/
  levels     : ∀ d ∈ ds, isLevel s.cfg d
  /-- The trace is `start STEP^m CHECK PASS_END`. -/
  operations : trace (stepsLength s.cfg ds + 3) s = start :: stepsTrace s.cfg ds ++ [.check, .passEnd]
  /-- The pass has 3 cycles more than its steps. -/
  finish     : cycles (stepsLength s.cfg ds + 3) s = .next (s.later (stepsLength s.cfg ds + 3) r)
  /-- The frames, each exactly once, in order. -/
  shown      : frames (observe (stepsLength s.cfg ds + 3) s) = (List.range ds.length).map pair
  /-- A poll of the pass that requests a switch belongs to its last step. -/
  lastStep   : ∀ j < stepsLength s.cfg ds + 3, SwitchAt s j → 1 + stepsLength s.cfg ds.dropLast ≤ j
  /-- A pass that stops short saw a request. -/
  early      : ds.length < n → ∃ j < stepsLength s.cfg ds + 3, SwitchAt s j

end Sys2Proof.Machine
end

