-- ==== Sys2Proof/Certificates/Slice0/Obligations.lean ====
section
/-! DEFINITION. The statements for the provers. State codes are written as R71's numbers, so that a statement does not
rest on the model's encoder. -/

open Sys2Proof Sys2Proof.Machine

/-! ## Encoding and the step -/

/-- R71, R74: the map of all 16 codes, each word written from the column "bits `S[3:0]`". -/
def Obligations.CodesDecodeAsTheMapSays : Prop :=
  decodeCode 0b0000#4 = .fwdInit ∧ decodeCode 0b0001#4 = .check ∧ decodeCode 0b0010#4 = .loadA ∧
    decodeCode 0b0011#4 = .loadB ∧ decodeCode 0b0100#4 = .shiftLo ∧ decodeCode 0b0101#4 = .shiftHi ∧
    decodeCode 0b0110#4 = .latch ∧ decodeCode 0b0111#4 = .poll1 ∧ decodeCode 0b1000#4 = .poll2 ∧
    decodeCode 0b1001#4 = .delay ∧ decodeCode 0b1010#4 = .poll3 ∧ decodeCode 0b1011#4 = .passEnd ∧
    decodeCode 0b1100#4 = .revInit ∧ decodeCode 0b1101#4 = .reservedD ∧ decodeCode 0b1110#4 = .reservedE ∧
    decodeCode 0b1111#4 = .reservedF

/-- R70, R75: every operation has one code and every code one operation; a byte that holds no code is rejected by name.
The layout of a code in a byte is the model's (log 5). -/
def Obligations.DecodeAndEncodeAgree : Prop :=
  (∀ i, decodeCode (encode i) = i) ∧ (∀ w, encode (decodeCode w) = w) ∧
    (∀ i rest, decodeBytes (encodeByte i :: rest) = .ok (i, rest)) ∧
    (∀ b rest i rest', decodeBytes (b :: rest) = .ok (i, rest') → b = encodeByte i ∧ rest' = rest) ∧
    ∀ (b : Byte) rest, 16 ≤ b.toNat → decodeBytes (b :: rest) = .error .widerThanFourBits

/-- R173: without a reset at the edge, a step under a well-formed configuration is the operation the code selects, with
nothing around it. The second clause is the model's way of placing a code (log 6). -/
def Obligations.StepRunsTheSelectedOperation : Prop :=
  (∀ s : State, s.cfg.wf = true → s.portIn.rst = false → step s = exec (decodeCode s.regs.S) s) ∧
    ∀ (s : State) (w : Nat) (i : Instr), s.cfg.wf = true → decodeTableWord 8 w = some i →
      step (s.withFetchWord 8 w) = exec i (s.withFetchWord 8 w)

/-- R190: a reset edge loads `RESET_STATE` whatever the state, leaves the outputs at 0, holds while `rst` stays 1, and
the first edge without it runs FWD_INIT with `idx = 0`. -/
def Obligations.ResetOverridesEverything : Prop :=
  (∀ s : State, s.cfg.wf = true → s.portIn.rst = true →
    ∃ r, step s = .next (s.later 1 r) ∧ IsResetState r ∧ (s.later 1 r).outputs = ⟨false, false, false, 0⟩ ∧
      ∀ a, (s.later 1 r).storeByte a = s.storeByte a) ∧
  ∀ s : State, s.cfg.wf = true → IsResetState s.regs → s.portIn.rst = false →
    step s = exec .fwdInit s ∧ s.regs.idx.toNat = 0

/-- R44: `RESET_STATE`; and its outputs, which the spec derives there from R38 and R51. -/
def Obligations.ResetStateIsAsListed : Prop :=
  (∀ c, IsResetState (Regs.reset c)) ∧ IsResetState State.reset.regs ∧ State.reset.regs.delay.toNat = 3 ∧
    State.reset.outputs = ⟨false, false, false, 0⟩

/-- R8: a configuration that fails a check has no step (that the step refuses it is the model's form of R8's "refuses",
log 1, log 9); one that passes them all steps in every state; the reference
configuration passes. -/
def Obligations.MalformedConfigurationsAreRefused : Prop :=
  (∀ s : State, ¬ WellFormedConfig s.cfg → step s = .refused .malformedConfiguration) ∧
    (∀ s : State, WellFormedConfig s.cfg → ∃ r, step s = .next (s.later 1 r)) ∧ WellFormedConfig Config.hw

/-- R170, R202: no operation raises anything; each takes one cycle in every state, its configuration and store kept. -/
def Obligations.EveryOperationCompletesInOneCycle : Prop :=
  ∀ (i : Instr) (s : State), ∃ r, exec i s = .next (s.later 1 r)

/-! ## The serializer -/

/-- R100. -/
def Obligations.LoadASendsTheFirstByte : Prop :=
  ∀ s : State,
    let aFirst := if s.regs.dir then s.regs.i - 1 else s.regs.i
    decodeCode 0x2#4 = .loadA ∧
    (s.regs.S = 0x2#4 →
      s.outputs = ⟨s.regs.shreg[0], false, false, (aFirst.setWidth s.cfg.addrW).toNat⟩) ∧
    (Inv s → s.regs.S = 0x2#4 → s.outputs.serData = false ∧
      s.regs.eStart.toNat ≤ s.outputs.memAddr ∧ s.outputs.memAddr < s.regs.eStart.toNat + s.regs.eLen.toNat) ∧
    ReachedOnlyFrom 0x2#4 (fun s => s.regs.S = 0x1#4) ∧
    Completes .loadA s fun r =>
      r.shreg = s.storeByte (aFirst.setWidth s.cfg.addrW).toNat ∧ r.bitcnt = 0 ∧ r.k = false ∧ r.S = 0x4#4 ∧
        SameScan s.regs r ∧ SameTimer s.regs r ∧ SamePlayback s.regs r ∧ SameLatches s.regs r

/-- R101. -/
def Obligations.LoadBSendsTheSecondByte : Prop :=
  ∀ s : State,
    let aSecond := if s.regs.dir then s.regs.i else s.regs.i + 1
    decodeCode 0x3#4 = .loadB ∧
    (s.regs.S = 0x3#4 →
      s.outputs = ⟨s.regs.shreg[0], false, false, (aSecond.setWidth s.cfg.addrW).toNat⟩) ∧
    (Inv s → s.regs.S = 0x3#4 → s.outputs.serData = false) ∧
    ReachedOnlyFrom 0x3#4 (fun s => s.regs.S = 0x5#4 ∧ s.regs.k = false ∧ s.regs.bitcnt = 7) ∧
    Completes .loadB s fun r =>
      r.shreg = s.storeByte (aSecond.setWidth s.cfg.addrW).toNat ∧ r.bitcnt = 0 ∧ r.k = true ∧ r.S = 0x4#4 ∧
        SameScan s.regs r ∧ SameTimer s.regs r ∧ SamePlayback s.regs r ∧ SameLatches s.regs r

/-- R102. -/
def Obligations.ShiftLoHoldsTheBitWithTheClockLow : Prop :=
  ∀ s : State,
    decodeCode 0x4#4 = .shiftLo ∧
    (s.regs.S = 0x4#4 →
      s.outputs.serData = s.regs.shreg[0] ∧ s.outputs.serClk = false ∧ s.outputs.latch = false) ∧
    (Inv s → s.regs.S = 0x4#4 → s.outputs.serData = s.currentByte.getLsbD s.regs.bitcnt.toNat) ∧
    Completes .shiftLo s fun r =>
      r.S = 0x5#4 ∧ SameScan s.regs r ∧ SameShifter s.regs r ∧ SameTimer s.regs r ∧ SamePlayback s.regs r ∧
        SameLatches s.regs r

/-- R103. -/
def Obligations.ShiftHiClocksAndShifts : Prop :=
  ∀ s : State,
    decodeCode 0x5#4 = .shiftHi ∧
    (s.regs.S = 0x5#4 →
      s.outputs.serData = s.regs.shreg[0] ∧ s.outputs.serClk = true ∧ s.outputs.latch = false) ∧
    (∀ r, s.portIn.rst = false → step s = .next (s.later 1 r) → r.S = 0x5#4 →
      s.regs.S = 0x4#4 ∧ (s.later 1 r).outputs.serData = s.outputs.serData) ∧
    (Inv s → s.regs.S = 0x5#4 → s.regs.bitcnt = 7 → s.regs.shreg >>> 1 = 0x00#8) ∧
    Completes .shiftHi s fun r =>
      (∀ j < 7, r.shreg.getLsbD j = s.regs.shreg.getLsbD (j + 1)) ∧ r.shreg.getLsbD 7 = false ∧
        r.bitcnt.toNat = (s.regs.bitcnt.toNat + 1) % 8 ∧
        r.S = (if s.regs.bitcnt = 7 then (if s.regs.k then 0x6#4 else 0x3#4) else 0x4#4) ∧
        r.k = s.regs.k ∧ SameScan s.regs r ∧ SameTimer s.regs r ∧ SamePlayback s.regs r ∧ SameLatches s.regs r

/-- R104. -/
def Obligations.LatchPulsesOnce : Prop :=
  ∀ s : State,
    decodeCode 0x6#4 = .latch ∧
    (s.regs.S = 0x6#4 → s.outputs.latch = true ∧ s.outputs.serClk = false) ∧
    (Inv s → s.regs.S = 0x6#4 → s.outputs.serData = false) ∧
    ReachedOnlyFrom 0x6#4 (fun s => s.regs.S = 0x5#4 ∧ s.regs.k = true ∧ s.regs.bitcnt = 7) ∧
    Completes .latch s fun r =>
      r.S = 0x7#4 ∧ SameScan s.regs r ∧ SameShifter s.regs r ∧ SameTimer s.regs r ∧ SamePlayback s.regs r ∧
        SameLatches s.regs r

/-- The waveform of one byte, and the idle level of the data line: what the spec derives from R100 to R104 in R105. -/
def Obligations.ByteGoesOutLeastSignificantBitFirst : Prop :=
  (∀ (s : State) (b : Byte), s.cfg.wf = true → NoReset s 17 →
    (s.regs.S = 0x2#4 ∧ b = s.memRead (if s.regs.dir then s.regs.i - 1 else s.regs.i) ∨
      s.regs.S = 0x3#4 ∧ b = s.memRead (if s.regs.dir then s.regs.i else s.regs.i + 1)) →
    (∀ j, 1 ≤ j → j ≤ 8 → ∃ lo hi,
      cycles (2 * j - 1) s = .next (s.later (2 * j - 1) lo) ∧ lo.S = 0x4#4 ∧
      (s.later (2 * j - 1) lo).outputs.serData = b.getLsbD (j - 1) ∧
      (s.later (2 * j - 1) lo).outputs.serClk = false ∧ lo.k = decide (s.regs.S = 0x3#4) ∧
      cycles (2 * j) s = .next (s.later (2 * j) hi) ∧ hi.S = 0x5#4 ∧
      (s.later (2 * j) hi).outputs.serData = b.getLsbD (j - 1) ∧
      (s.later (2 * j) hi).outputs.serClk = true ∧ hi.k = decide (s.regs.S = 0x3#4)) ∧
    ∃ r, cycles 17 s = .next (s.later 17 r) ∧ r.S = (if s.regs.S = 0x2#4 then 0x3#4 else 0x6#4) ∧ r.shreg = 0) ∧
  ∀ s : State, Inv s → ¬ Shifting s.regs.S → s.regs.shreg = 0 ∧ s.outputs.serData = false

/-- What the spec derives in R106, seen by R108's observer: from LOAD_A on, exactly 16 bits are clocked before the
latch, and the frame it commits is the pair, the lower address first (R58), whatever the observer saw before. -/
def Obligations.PairBecomesOneFrame : Prop :=
  ∀ s : State, s.cfg.wf = true → NoReset s 34 → s.regs.S = 0x2#4 →
    (∃ r, cycles 17 s = .next (s.later 17 r) ∧ r.S = 0x3#4) ∧
    (∃ r, cycles 34 s = .next (s.later 34 r) ∧ r.S = 0x6#4) ∧
    ∀ o : Observer, o.serClk = false → o.latch = false →
      ((observe 35 s).foldl Observer.sample o).bits.length = o.bits.length + 16 ∧
      ((observe 35 s).foldl Observer.sample o).frames = o.frames ++
        [(s.memRead (if s.regs.dir then s.regs.i - 1 else s.regs.i),
          s.memRead (if s.regs.dir then s.regs.i else s.regs.i + 1))]

/-- What the spec derives in R192: the first frame latched after a reset is the first pair of entry 0, whatever bits
came before. -/
def Obligations.FirstFrameAfterResetIsTheFirstPair : Prop :=
  ∀ (s : State) (e : Entry), s.cfg.wf = true → IsResetState s.regs → NoReset s 36 → s.cfg.catalog[0]? = some e →
    ∀ o : Observer,
      ((observe 37 s).foldl Observer.sample o).frames = o.frames ++ [(s.storeByte e.start, s.storeByte (e.start + 1))]

/-- What the spec derives in R107 and R104: whatever step runs, resets among them, `ser_clk` and `latch` are high for
one cycle at a time and never together, `latch` rises where `ser_clk` falls, and the bit on `ser_data` stands one
cycle before `ser_clk` rises. -/
def Obligations.SerialLinesKeepTheirTiming : Prop :=
  ∀ s t : State, step s = .next t →
    (s.outputs.serClk = true → t.outputs.serClk = false) ∧ (s.outputs.latch = true → t.outputs.latch = false) ∧
      ¬ (s.outputs.serClk = true ∧ s.outputs.latch = true) ∧
      (t.outputs.latch = true → s.outputs.serClk = true) ∧
      (t.outputs.serClk = true → s.outputs.serClk = false ∧ t.outputs.serData = s.outputs.serData)

/-! ## Outputs and the pattern store -/

/-- R38, R51: the four outputs, as functions of the state. -/
def Obligations.OutputsAreDrivenFromTheState : Prop :=
  ∀ s : State,
    s.outputs.serData = s.regs.shreg.getLsbD 0 ∧ s.outputs.serClk = decide (s.regs.S = 0x5#4) ∧
      s.outputs.latch = decide (s.regs.S = 0x6#4) ∧
      s.outputs.memAddr =
        (if s.regs.S = 0x3#4 then (if s.regs.dir then s.regs.i else s.regs.i + 1)
          else (if s.regs.dir then s.regs.i - 1 else s.regs.i)).toNat % 2 ^ s.cfg.addrW

/-- What the spec derives in R56: the addresses LOAD_A and LOAD_B sample lie in the latched entry and in the store. -/
def Obligations.SampledAddressesLieInTheLatchedEntry : Prop :=
  ∀ s : State, Inv s → s.regs.S = 0x2#4 ∨ s.regs.S = 0x3#4 →
    s.regs.eStart.toNat ≤ s.outputs.memAddr ∧ s.outputs.memAddr < s.regs.eStart.toNat + s.regs.eLen.toNat ∧
      s.outputs.memAddr < s.cfg.storeSize

/-- R53, R65: no step writes the store or changes the configuration, and the listed bytes keep their canonical form. -/
def Obligations.StoreAndConfigurationNeverChange : Prop :=
  ∀ s t : State, step s = .next t →
    t.cfg = s.cfg ∧ t.store = s.store ∧ (∀ a, t.storeByte a = s.storeByte a) ∧
      (Memory.wf s.cfg s.store = true → Memory.wf t.cfg t.store = true)

/-- R52, R53, and what the spec derives in R54: LOAD_A and LOAD_B depend on the store through the byte at `mem_addr`
alone, and no other operation depends on it. -/
def Obligations.OnlyTheLoadsReadTheStore : Prop :=
  ∀ (s : State) (i : Instr) (m : List Host.Cell),
    (i = .loadA ∨ i = .loadB → s.regs.S = encode i ∧
      ({ s with store := m } : State).storeByte s.outputs.memAddr = s.storeByte s.outputs.memAddr) →
    ∃ r : Regs s.cfg, exec i s = .next (s.later 1 r) ∧
      exec i { s with store := m } = .next (({ s with store := m } : State).later 1 r)

/-- R55, U3: the bytes past `STORE_SIZE` are never read; a store that differs there only steps to the same registers. -/
def Obligations.BytesPastStoreSizeAreNeverRead : Prop :=
  ∀ (s : State) (m : List Host.Cell), Inv s →
    (∀ a < s.cfg.storeSize, ({ s with store := m } : State).storeByte a = s.storeByte a) →
    ∃ r : Regs s.cfg, step s = .next (s.later 1 r) ∧
      step { s with store := m } = .next (({ s with store := m } : State).later 1 r)

/-! ## The debouncers -/

/-- R120, R173: whatever legal operation runs, the edge moves the buttons one stage on, and nothing but the first stages
depends on the port levels, nothing but the second stages on the first; reset and reserved-code recovery clear all four
stages instead. -/
def Obligations.ButtonsReachOnlyTheFirstStages : Prop :=
  (∀ s : State, s.cfg.wf = true → s.portIn.rst = true ∨ 0xD ≤ s.regs.S.toNat →
    ∃ r, step s = .next (s.later 1 r) ∧ r.spdS1 = false ∧ r.spdS2 = false ∧ r.patS1 = false ∧ r.patS2 = false) ∧
  ∀ (s : State) (i : Instr) (xs : List PortIn), i ≠ .reservedD → i ≠ .reservedE → i ≠ .reservedF →
    ∃ r r' : Regs s.cfg, exec i s = .next (s.later 1 r) ∧
      exec i { s with inputs := xs } = .next (({ s with inputs := xs } : State).later 1 r') ∧
      Synchronised s.regs s.portIn r ∧ { r' with spdS1 := r.spdS1, patS1 := r.patS1 } = r ∧
      ∀ a b : Bool, exec i { s with regs := { s.regs with spdS1 := a, patS1 := b } } =
        .next (s.later 1 { r with spdS2 := a, patS2 := b })

/-- What the spec derives in R129: the samples a poll sees are the port levels at the edge two cycles before. -/
def Obligations.SamplesAreTwoCyclesOld : Prop :=
  ∀ s : State, s.cfg.wf = true → NoReset s 2 → s.regs.S.toNat ≤ 0xC →
    ∃ r, cycles 2 s = .next (s.later 2 r) ∧ r.spdS2 = (s.portInAt 0).btnSpeed ∧ r.patS2 = (s.portInAt 0).btnPattern

/-- What the spec derives in R128 from R124 and R9: the speed actions visit the levels in order and return to the
base, six actions in the reference configuration. -/
def Obligations.SpeedActionsCycleThroughTheLevels : Prop :=
  (∀ (c : Config) (r : Regs c) (k : Nat), c.wf = true → r.delay.toNat = c.delayBase →
    c.delayBase + k * c.delayStep < c.delayWrap →
    ((Regs.speedAction)^[k] r).delay.toNat = c.delayBase + k * c.delayStep ∧
      (c.delayWrap ≤ c.delayBase + (k + 1) * c.delayStep →
        ((Regs.speedAction)^[k + 1] r).delay.toNat = c.delayBase)) ∧
  ∀ r : Regs Config.hw, r.delay.toNat = 3 → ((Regs.speedAction)^[6] r).delay.toNat = 3

/-- What the spec derives in R130 from R125: the pattern events alternate between reversing and advancing; `2 * N_PAT`
of them come back to the start. -/
def Obligations.PatternEventsAlternateAndAdvance : Prop :=
  ∀ (c : Config) (r : Regs c), c.wf = true → r.rev = false → r.idx.toNat < c.nPat →
    (∀ k, ((Regs.patternAction)^[k] r).rev = decide (k % 2 = 1) ∧
      ((Regs.patternAction)^[k] r).idx.toNat = (r.idx.toNat + k / 2) % c.nPat ∧
      (2 ≤ k → ((Regs.patternAction)^[k] r).sw = true)) ∧
    ((Regs.patternAction)^[2 * c.nPat] r).idx = r.idx ∧ ((Regs.patternAction)^[2 * c.nPat] r).rev = false

/-- R123, and what the spec derives in R127: at most one of the two latches registers a press at an edge, and the action
of the other button does not run then. -/
def Obligations.OnePressAtAnEdge : Prop :=
  ∀ s t : State, step s = .next t →
    (s.regs.spdLatch = false → t.regs.spdLatch = true →
      t.regs.patLatch = s.regs.patLatch ∧ t.regs.rev = s.regs.rev ∧ t.regs.idx.toNat = s.regs.idx.toNat ∧
        t.regs.sw = s.regs.sw) ∧
    (s.regs.patLatch = false → t.regs.patLatch = true →
      ¬ (s.regs.spdLatch = false ∧ t.regs.spdLatch = true) ∧ t.regs.delay.toNat = s.regs.delay.toNat)

/-- What the spec derives in R126: over polls that all see a button pressed, its action runs once, at the first poll
that evaluates it. For the pattern button the speed samples are free, so a poll may be skipped under R123. -/
def Obligations.HeldButtonActsOnce : Prop :=
  (∀ (c : Config) (r : Regs c) (p : Bool) (ps : List Bool), r.spdLatch = false →
    (polls r ((true, p) :: ps.map fun q => (true, q))).spdLatch = true ∧
      (polls r ((true, p) :: ps.map fun q => (true, q))).delay.toNat = levelAfterSpeedAction r) ∧
  ∀ (c : Config) (r : Regs c) (v : Bool) (vs : List Bool), r.patLatch = false → ¬ (v = true ∧ r.spdLatch = false) →
    (polls r ((v, true) :: vs.map fun u => (u, true))).patLatch = true ∧
      PatternActed r (polls r ((v, true) :: vs.map fun u => (u, true)))

/-! ## The sequencer -/

/-- R140, R141: FWD_INIT latches the catalog entry of `idx`, entry 0 where `idx` is past the catalog. -/
def Obligations.FwdInitLatchesTheActiveEntry : Prop :=
  ∀ (s : State) (e : Entry), IsCatLookup s.cfg s.regs.idx.toNat e →
    decodeCode 0x0#4 = .fwdInit ∧
    (Inv s → s.regs.S = 0x0#4 → s.regs.sw = false) ∧
    Completes .fwdInit s fun r =>
      r.eStart = BitVec.ofNat s.cfg.cw e.start ∧ r.eLen = BitVec.ofNat s.cfg.cw e.len ∧
        r.i = BitVec.ofNat s.cfg.cw e.start ∧ r.dir = false ∧ r.S = 0x1#4 ∧
        (s.cfg.wf = true → r.eStart.toNat = e.start ∧ r.eLen.toNat = e.len ∧ r.i.toNat = e.start) ∧
        SameShifter s.regs r ∧ SameTimer s.regs r ∧ SamePlayback s.regs r ∧ SameLatches s.regs r

/-- R142, with its corner cases: in reverse the offset is `e_start + 1` or at least `e_start + 3`; the first forward
CHECK of a pass goes on; over an entry of length 4 the first reverse CHECK does not. -/
def Obligations.CheckTestsTheRangeAndTheSwitch : Prop :=
  ∀ s : State,
    decodeCode 0x1#4 = .check ∧
    (Inv s → s.regs.S = 0x1#4 → s.regs.dir = true →
      s.regs.i.toNat = s.regs.eStart.toNat + 1 ∨ s.regs.eStart.toNat + 3 ≤ s.regs.i.toNat) ∧
    (Inv s → s.regs.S = 0x0#4 → NoReset s 2 → ∃ r, cycles 2 s = .next (s.later 2 r) ∧ r.S = 0x2#4) ∧
    (Inv s → s.regs.S = 0xC#4 → s.regs.eLen.toNat = 4 → NoReset s 2 →
      ∃ r, cycles 2 s = .next (s.later 2 r) ∧ r.S = 0xB#4) ∧
    Completes .check s fun r =>
      (s.regs.dir = false →
        r.S = if s.regs.i.toNat < (s.regs.eStart + s.regs.eLen).toNat ∧ s.regs.sw = false then 0x2#4 else 0xB#4) ∧
      (s.regs.dir = true →
        r.S = if (s.regs.eStart + 2).toNat ≤ s.regs.i.toNat ∧ s.regs.sw = false then 0x2#4 else 0xB#4) ∧
      SameScan s.regs r ∧ SameShifter s.regs r ∧ SameTimer s.regs r ∧ SamePlayback s.regs r ∧ SameLatches s.regs r

/-- R143, R121 to R125. -/
def Obligations.Poll1PollsAfterTheLatch : Prop :=
  ∀ s : State,
    decodeCode 0x7#4 = .poll1 ∧
    Completes .poll1 s fun r =>
      Polled s.regs r ∧ r.S = 0x8#4 ∧ SameScan s.regs r ∧ SameShifter s.regs r ∧ SameTimer s.regs r

/-- R144: the delay counter is loaded with the level the same poll leaves. -/
def Obligations.Poll2PollsAndLoadsTheDelay : Prop :=
  ∀ s : State,
    decodeCode 0x8#4 = .poll2 ∧
    Completes .poll2 s fun r =>
      Polled s.regs r ∧ r.ticks = r.delay ∧ r.pre.toNat = s.cfg.tickCycles - 1 ∧ r.S = 0x9#4 ∧
        SameScan s.regs r ∧ SameShifter s.regs r

/-- R145: one cycle of the delay counter; and the length of the whole delay, which the spec derives there by induction
on the ticks. -/
def Obligations.DelayCountsTicksOfTickCycles : Prop :=
  (∀ s : State,
    decodeCode 0x9#4 = .delay ∧
    Completes .delay s fun r =>
      (if s.regs.pre.toNat ≠ 0 then
        r.pre.toNat = s.regs.pre.toNat - 1 ∧ r.ticks = s.regs.ticks ∧ r.S = s.regs.S
      else if s.regs.ticks.toNat ≤ 1 then r.S = 0xA#4 ∧ SameTimer s.regs r
      else
        r.ticks.toNat = s.regs.ticks.toNat - 1 ∧ r.pre.toNat = s.cfg.tickCycles - 1 ∧ r.S = s.regs.S) ∧
      SameScan s.regs r ∧ SameShifter s.regs r ∧ SamePlayback s.regs r ∧ SameLatches s.regs r) ∧
  ∀ s : State, s.cfg.wf = true → s.regs.S = 0x9#4 → 1 ≤ s.regs.ticks.toNat →
    s.regs.pre.toNat = s.cfg.tickCycles - 1 →
    let n := s.regs.ticks.toNat * s.cfg.tickCycles
    NoReset s n →
    (∀ j < n, ∃ r, cycles j s = .next (s.later j r) ∧ r.S = 0x9#4) ∧
      ∃ r, cycles n s = .next (s.later n r) ∧ r.S = 0xA#4

/-- R146. -/
def Obligations.Poll3PollsAndAdvancesTheOffset : Prop :=
  ∀ s : State,
    decodeCode 0xA#4 = .poll3 ∧
    (Inv s → s.regs.S = 0xA#4 → s.regs.dir = false →
      (s.regs.i + 2).toNat = s.regs.i.toNat + 2 ∧ s.regs.i.toNat + 2 ≤ (s.regs.eStart + s.regs.eLen).toNat) ∧
    (Inv s → s.regs.S = 0xA#4 → s.regs.dir = true →
      (s.regs.i - 2).toNat + 2 = s.regs.i.toNat ∧ s.regs.eStart.toNat + 1 ≤ (s.regs.i - 2).toNat) ∧
    Completes .poll3 s fun r =>
      Polled s.regs r ∧ r.i = (if s.regs.dir then s.regs.i - 2 else s.regs.i + 2) ∧ r.S = 0x1#4 ∧
        r.dir = s.regs.dir ∧ r.eStart = s.regs.eStart ∧ r.eLen = s.regs.eLen ∧ SameShifter s.regs r ∧
        SameTimer s.regs r

/-- R147, with its corner case: a switch request that outlives a forward pass makes the reverse pass empty and is
cleared after it. -/
def Obligations.PassEndReversesOrRestarts : Prop :=
  ∀ s : State,
    decodeCode 0xB#4 = .passEnd ∧
    (s.cfg.wf = true → s.regs.S = 0xB#4 → s.regs.dir = false → s.regs.rev = true → s.regs.sw = true → NoReset s 4 →
      trace 4 s = [.passEnd, .revInit, .check, .passEnd] ∧
        ∃ r, cycles 4 s = .next (s.later 4 r) ∧ r.S = 0x0#4 ∧ r.sw = false) ∧
    Completes .passEnd s fun r =>
      (if s.regs.dir = false ∧ s.regs.rev = true then r.S = 0xC#4 ∧ r.sw = s.regs.sw
        else r.S = 0x0#4 ∧ r.sw = false) ∧
      r.idx = s.regs.idx ∧ r.rev = s.regs.rev ∧ r.delay = s.regs.delay ∧
      SameScan s.regs r ∧ SameShifter s.regs r ∧ SameTimer s.regs r ∧ SameLatches s.regs r

/-- R148: under the invariants the start does not underflow. -/
def Obligations.RevInitStartsBeforeTheLastPair : Prop :=
  ∀ s : State,
    decodeCode 0xC#4 = .revInit ∧
    Completes .revInit s fun r =>
      r.i = s.regs.eStart + s.regs.eLen - 3 ∧ r.dir = true ∧ r.S = 0x1#4 ∧
        (Inv s → s.regs.S = 0xC#4 →
          r.i.toNat + 3 = s.regs.eStart.toNat + s.regs.eLen.toNat ∧ s.regs.eStart.toNat + 1 ≤ r.i.toNat) ∧
        r.eStart = s.regs.eStart ∧ r.eLen = s.regs.eLen ∧ SameShifter s.regs r ∧ SameTimer s.regs r ∧
        SamePlayback s.regs r ∧ SameLatches s.regs r

/-- R74: the reserved codes recover to `RESET_STATE`, the synchronisers among it, exactly as a reset does; no step
leaves one in `S`. -/
def Obligations.ReservedCodesRecover : Prop :=
  decodeCode 0xD#4 = .reservedD ∧ decodeCode 0xE#4 = .reservedE ∧ decodeCode 0xF#4 = .reservedF ∧
  (∀ (s : State) (i : Instr), i = .reservedD ∨ i = .reservedE ∨ i = .reservedF →
    ∃ r, exec i s = .next (s.later 1 r) ∧ IsResetState r ∧ ∀ a, (s.later 1 r).storeByte a = s.storeByte a) ∧
  (∀ s : State, s.cfg.wf = true → s.regs.S = 0xD#4 ∨ s.regs.S = 0xE#4 ∨ s.regs.S = 0xF#4 →
    ∃ r, step s = .next (s.later 1 r) ∧ IsResetState r) ∧
  ∀ s t : State, step s = .next t → t.regs.S.toNat ≤ 0xC

/-! ## Whole-machine rules -/

/-- What the spec derives in R42 from the state rules: the successors of each code; a reset goes to FWD_INIT. -/
def Obligations.NextCodeIsAListedSuccessor : Prop :=
  ∀ s : State, s.cfg.wf = true →
    ∃ r, step s = .next (s.later 1 r) ∧
      if s.portIn.rst then r.S = 0x0#4 else r.S ∈ successors (decodeCode s.regs.S)

/-- What the spec derives in R40 from R22 to R34: each register is written only by the rules the spec names for it. -/
def Obligations.RegistersHaveOnlyTheirNamedWriters : Prop :=
  ∀ (s : State) (i : Instr), i ≠ .reservedD → i ≠ .reservedE → i ≠ .reservedF →
    ∃ r, exec i s = .next (s.later 1 r) ∧
      (r.dir ≠ s.regs.dir → i = .fwdInit ∧ r.dir = false ∨ i = .revInit ∧ r.dir = true) ∧
      (r.k ≠ s.regs.k → i = .loadA ∧ r.k = false ∨ i = .loadB ∧ r.k = true) ∧
      (r.bitcnt ≠ s.regs.bitcnt ∨ r.shreg ≠ s.regs.shreg → i = .loadA ∨ i = .loadB ∨ i = .shiftHi) ∧
      (r.i ≠ s.regs.i → i = .fwdInit ∨ i = .revInit ∨ i = .poll3) ∧
      (r.eStart ≠ s.regs.eStart ∨ r.eLen ≠ s.regs.eLen → i = .fwdInit) ∧
      (r.ticks ≠ s.regs.ticks ∨ r.pre ≠ s.regs.pre → i = .poll2 ∨ i = .delay) ∧
      (r.idx ≠ s.regs.idx ∨ r.rev ≠ s.regs.rev ∨ r.delay ≠ s.regs.delay ∨ r.spdLatch ≠ s.regs.spdLatch ∨
        r.patLatch ≠ s.regs.patLatch → i = .poll1 ∨ i = .poll2 ∨ i = .poll3) ∧
      (r.sw ≠ s.regs.sw →
        (i = .poll1 ∨ i = .poll2 ∨ i = .poll3) ∧ r.sw = true ∨ i = .passEnd ∧ r.sw = false)

/-- R27, R141: the pattern index reaches nothing but itself until FWD_INIT latches its entry. -/
def Obligations.IndexTakesEffectAtFwdInitOnly : Prop :=
  ∀ (s : State) (i : Instr) (v : BitVec s.cfg.iw), i ≠ .fwdInit →
    ({ s with regs := { s.regs with idx := v } } : State).outputs = s.outputs ∧
      ∃ r r' : Regs s.cfg, exec i s = .next (s.later 1 r) ∧
        exec i { s with regs := { s.regs with idx := v } } = .next (s.later 1 r') ∧ { r' with idx := r.idx } = r

/-- The invariants the spec derives in R45, at reset. -/
def Obligations.ResetMeetsTheInvariants : Prop :=
  Inv State.reset

/-- Every step keeps the invariants the spec derives in R45. -/
def Obligations.EveryStepKeepsTheInvariants : Prop :=
  ∀ s t : State, Inv s → step s = .next t → Inv t

/-- The spec's sentence of R45: the invariants hold of every state reachable from `RESET_STATE` under any well-formed
configuration, store and inputs. -/
def Obligations.ReachableStatesMeetTheInvariants : Prop :=
  ∀ (s t : State) (n : Nat), s.cfg.wf = true → Memory.wf s.cfg s.store = true → IsResetState s.regs →
    cycles n s = .next t → Inv t

/-! ## Steps, passes and their timing -/

/-- What the spec derives in R153, in R82's notation: a step from a CHECK that goes on is the trace `STEP`, lasts `39
+ d*T` cycles with `d` the level its POLL2 loads, shows its pair, and comes back to CHECK at the next pair of the same
range, whatever the buttons do. -/
def Obligations.OneStepShowsOnePair : Prop :=
  ∀ s : State, Inv s → s.regs.S = 0x1#4 → s.regs.sw = false →
    (s.regs.dir = false → s.regs.i.toNat < s.regs.rangeEnd.toNat) →
    (s.regs.dir = true → s.regs.eStart.toNat + 2 ≤ s.regs.i.toNat) →
    NoReset s (39 + s.cfg.delayWrap * s.cfg.tickCycles) →
    ∃ (d : Nat) (u r : Regs s.cfg), isLevel s.cfg d ∧
      cycles 38 s = .next (s.later 38 u) ∧ u.S = 0x9#4 ∧ u.ticks.toNat = d ∧
      trace (39 + d * s.cfg.tickCycles) s = stepTrace (d * s.cfg.tickCycles) ∧
      cycles (39 + d * s.cfg.tickCycles) s = .next (s.later (39 + d * s.cfg.tickCycles) r) ∧
      r.S = 0x1#4 ∧ r.i = (if s.regs.dir then s.regs.i - 2 else s.regs.i + 2) ∧ r.dir = s.regs.dir ∧
      r.eStart = s.regs.eStart ∧ r.eLen = s.regs.eLen ∧
      frames (observe (39 + d * s.cfg.tickCycles) s) =
        [(s.memRead (if s.regs.dir then s.regs.i - 1 else s.regs.i),
          s.memRead (if s.regs.dir then s.regs.i else s.regs.i + 1))]

/-- What the spec derives in R151 and R199: a switch requested at a poll lets its step finish, the whole delay and POLL3
included, and ends the pass at the CHECK right after that POLL3, and no sooner. -/
def Obligations.SwitchTakesEffectAtThePairBoundary : Prop :=
  ∀ s : State, Inv s → RequestsSwitch s.regs → NoReset s (4 + s.cfg.delayWrap * s.cfg.tickCycles) →
    (s.regs.S = 0x7#4 → ∃ u v w : Regs s.cfg, let d := u.ticks.toNat * s.cfg.tickCycles
      cycles 2 s = .next (s.later 2 u) ∧ u.S = 0x9#4 ∧ cycles (3 + d) s = .next (s.later (3 + d) v) ∧ v.S = 0x1#4 ∧
        cycles (4 + d) s = .next (s.later (4 + d) w) ∧ w.S = 0xB#4 ∧
        trace (5 + d) s = [.poll1, .poll2] ++ List.replicate d .delay ++ [.poll3, .check, .passEnd]) ∧
    (s.regs.S = 0x8#4 → ∃ u v w : Regs s.cfg, let d := u.ticks.toNat * s.cfg.tickCycles
      cycles 1 s = .next (s.later 1 u) ∧ u.S = 0x9#4 ∧ cycles (2 + d) s = .next (s.later (2 + d) v) ∧ v.S = 0x1#4 ∧
        cycles (3 + d) s = .next (s.later (3 + d) w) ∧ w.S = 0xB#4 ∧
        trace (4 + d) s = [.poll2] ++ List.replicate d .delay ++ [.poll3, .check, .passEnd]) ∧
    (s.regs.S = 0xA#4 → ∃ v w : Regs s.cfg,
      cycles 1 s = .next (s.later 1 v) ∧ v.S = 0x1#4 ∧ cycles 2 s = .next (s.later 2 w) ∧ w.S = 0xB#4 ∧
        trace 3 s = [.poll3, .check, .passEnd])

/-- What the spec derives in R149 and R153: a forward pass without button events shows every pair of the latched entry
once, in ascending order, and takes `n * (39 + d*T) + 3` cycles. -/
def Obligations.ForwardPassShowsEveryPairOnce : Prop :=
  ∀ (s : State) (e : Entry), Inv s → s.regs.S = 0x0#4 → IsCatLookup s.cfg s.regs.idx.toNat e →
    let n := e.len / 2
    let len := n * (39 + s.regs.delay.toNat * s.cfg.tickCycles) + 3
    Quiet s len →
    ∃ r, cycles len s = .next (s.later len r) ∧ r.S = (if s.regs.rev then 0xC#4 else 0x0#4) ∧
      r.eStart.toNat = e.start ∧ r.eLen.toNat = e.len ∧ SamePlayback s.regs r ∧
      frames (observe len s) =
        (List.range n).map fun m => (s.storeByte (e.start + 2 * m), s.storeByte (e.start + 2 * m + 1))

/-- What the spec derives in R150 and R153: a reverse pass without button events and without a switch request shows
the pairs `P_{n-2} .. P_1` in this order, the lower address of each first, and takes `(n - 2) * (39 + d*T) + 3`
cycles. -/
def Obligations.ReversePassShowsTheInnerPairsBackward : Prop :=
  ∀ s : State, Inv s → s.regs.S = 0xC#4 → s.regs.sw = false →
    let n := s.regs.eLen.toNat / 2
    let len := (n - 2) * (39 + s.regs.delay.toNat * s.cfg.tickCycles) + 3
    Quiet s len →
    ∃ r, cycles len s = .next (s.later len r) ∧ r.S = 0x0#4 ∧ SamePlayback s.regs r ∧
      r.eStart = s.regs.eStart ∧ r.eLen = s.regs.eLen ∧
      frames (observe len s) =
        (List.range (n - 2)).map fun j =>
          (s.storeByte (s.regs.eStart.toNat + 2 * (n - 2 - j)), s.storeByte (s.regs.eStart.toNat + 2 * (n - 2 - j) + 1))

/-- What the spec derives in R194: the operations of the cycles after reset with no button pressed. -/
def Obligations.CyclesAfterResetAreAsTabled : Prop :=
  ∀ s : State, s.cfg.wf = true → Memory.wf s.cfg s.store = true → IsResetState s.regs →
    Quiet s (41 + s.cfg.delayBase * s.cfg.tickCycles) →
    trace (41 + s.cfg.delayBase * s.cfg.tickCycles) s =
      .fwdInit :: stepTrace (s.cfg.delayBase * s.cfg.tickCycles) ++ [.check]

/-- What the spec derives in R149 and R153, whatever the buttons do: a forward pass shows the pairs of its entry in
ascending order, all of them unless a poll requests a switch, and then up to the pair of that poll's step. -/
def Obligations.ForwardPassShowsItsPairsWhateverTheButtons : Prop :=
  ∀ (s : State) (e : Entry), Inv s → s.regs.S = 0x0#4 → IsCatLookup s.cfg s.regs.idx.toNat e →
    let n := e.len / 2
    NoReset s (n * (39 + s.cfg.delayWrap * s.cfg.tickCycles) + 3) →
    ∃ (ds : List Nat) (r : Regs s.cfg),
      Passes s .fwdInit n (fun m => (s.storeByte (e.start + 2 * m), s.storeByte (e.start + 2 * m + 1))) ds r ∧
      1 ≤ ds.length ∧ r.S = (if r.rev then 0xC#4 else 0x0#4) ∧ r.eStart.toNat = e.start ∧ r.eLen.toNat = e.len ∧
      (r.rev = false ∨ (∀ j < stepsLength s.cfg ds + 3, ¬ SwitchAt s j) → r.sw = false)

/-- What the spec derives in R150 and R153, whatever the buttons do: a reverse pass shows the pairs `P_{n-2} .. P_1`
in this order, the lower address of each first, all of them unless a poll requests a switch, and then up to the pair
of that poll's step. -/
def Obligations.ReversePassShowsItsPairsWhateverTheButtons : Prop :=
  ∀ s : State, Inv s → s.regs.S = 0xC#4 → s.regs.sw = false →
    let n := s.regs.eLen.toNat / 2
    NoReset s ((n - 2) * (39 + s.cfg.delayWrap * s.cfg.tickCycles) + 3) →
    ∃ (ds : List Nat) (r : Regs s.cfg),
      Passes s .revInit (n - 2) (fun j => (s.storeByte (s.regs.eStart.toNat + 2 * (n - 2 - j)),
        s.storeByte (s.regs.eStart.toNat + 2 * (n - 2 - j) + 1))) ds r ∧
      r.S = 0x0#4 ∧ r.eStart = s.regs.eStart ∧ r.eLen = s.regs.eLen ∧ r.sw = false
end

