-- ==== Sys2Proof/Laws/Config.lean ====
section
/-! SUPPORT. The checks of R8 as one proposition, and the derived width of the prescaler. -/

namespace Sys2Proof.Laws

open Sys2Proof.Machine

theorem leastWidthFrom_spec (n : Nat) : ∀ fuel p, n ≤ 2 ^ (p + fuel) →
    p ≤ leastWidthFrom n p fuel ∧ n ≤ 2 ^ leastWidthFrom n p fuel ∧
      ∀ q, p ≤ q → n ≤ 2 ^ q → leastWidthFrom n p fuel ≤ q := by
  intro fuel
  induction fuel with
  | zero => intro p h; exact ⟨le_rfl, h, fun q hq _ => hq⟩
  | succ fuel ih =>
    intro p h
    unfold leastWidthFrom
    split
    next hp => exact ⟨le_rfl, hp, fun q hq _ => hq⟩
    next hp =>
      obtain ⟨h1, h2, h3⟩ := ih (p + 1) (by rwa [show p + 1 + fuel = p + (fuel + 1) by omega])
      refine ⟨by omega, h2, fun q hq hn => h3 q ?_ hn⟩
      rcases Nat.lt_or_eq_of_le hq with h | rfl
      · exact h
      · exact absurd hn hp

/-- The recursion's fuel is enough: `PW` is what R7 says. -/
theorem pw_spec (c : Config) : 1 ≤ c.pw ∧ c.tickCycles ≤ 2 ^ c.pw ∧
    ∀ q, 1 ≤ q → c.tickCycles ≤ 2 ^ q → c.pw ≤ q := by
  refine leastWidthFrom_spec c.tickCycles c.tickCycles 1 ?_
  exact (Nat.lt_two_pow_self).le.trans (Nat.pow_le_pow_right (by omega) (by omega))

/-- The second half of `wf_tick` (R8). -/
theorem tickCycles_le_two_pow_pw (c : Config) : c.tickCycles ≤ 2 ^ c.pw := (pw_spec c).2.1

/-- The tick reload fits the prescaler. -/
theorem tickReload_toNat (c : Config) : (tickReload c).toNat = c.tickCycles - 1 := by
  have h := tickCycles_le_two_pow_pw c
  have : 0 < 2 ^ c.pw := Nat.two_pow_pos _
  simp only [tickReload, BitVec.toNat_ofNat]
  exact Nat.mod_eq_of_lt (by omega)

/-- The Boolean checks say what R8 says. -/
theorem wf_iff (c : Config) : c.wf = true ↔ WellFormedConfig c := by
  have hT := tickCycles_le_two_pow_pw c
  constructor
  · intro h
    simp only [Config.wf, wfNPat, wfLenEven, wfLenMin, wfInStore, wfStoreAddr, wfDelay, wfDelayReg, wfTick,
      Bool.and_eq_true, decide_eq_true_eq, List.all_eq_true] at h
    obtain ⟨⟨⟨⟨⟨⟨⟨h1, h2⟩, h3⟩, h4⟩, h5⟩, h6⟩, h7⟩, h8⟩ := h
    exact ⟨h1, h2, h3, h4, h5, ⟨h6.1.1.1, h6.1.1.2, h6.1.2, h6.2⟩, h7, h8, hT⟩
  · rintro ⟨h1, h2, h3, h4, h5, h6, h7, h8⟩
    simp only [Config.wf, wfNPat, wfLenEven, wfLenMin, wfInStore, wfStoreAddr, wfDelay, wfDelayReg, wfTick,
      Bool.and_eq_true, decide_eq_true_eq, List.all_eq_true]
    exact ⟨⟨⟨⟨⟨⟨⟨h1, h2⟩, h3⟩, h4⟩, h5⟩, ⟨⟨⟨h6.1, h6.2.1⟩, h6.2.2.1⟩, h6.2.2.2⟩⟩, h7⟩, h8.1⟩

/-- A catalog entry of a well-formed configuration fits the offset registers. -/
theorem entry_lt_two_pow_cw {c : Config} (h : WellFormedConfig c) {e : Entry} (he : e ∈ c.catalog) :
    e.start + e.len < 2 ^ c.cw := by
  have h1 := h.inStore e he
  have h2 := h.storeAddr
  have h3 : 2 ^ c.cw = 2 * 2 ^ c.addrW := by rw [Config.cw, Nat.pow_succ]; omega
  have : 0 < 2 ^ c.addrW := Nat.two_pow_pos _
  omega

/-- A well-formed configuration has offset registers wide enough for the structural constants 1, 2 and 3 (R73). -/
theorem four_lt_two_pow_cw {c : Config} (h : WellFormedConfig c) : 4 < 2 ^ c.cw := by
  have hn : 0 < c.catalog.length := h.nPat.1
  have he : c.catalog[0] ∈ c.catalog := List.getElem_mem hn
  have h4 := h.lenMin _ he
  have hs := h.inStore _ he
  have ha := h.storeAddr
  have : 2 ^ c.cw = 2 * 2 ^ c.addrW := by rw [Config.cw, Nat.pow_succ]; omega
  omega

theorem ofNat_toNat_of_lt {w n : Nat} (h : n < 2 ^ w) : (BitVec.ofNat w n).toNat = n := by
  rw [BitVec.toNat_ofNat, Nat.mod_eq_of_lt h]

theorem two_toNat {c : Config} (h : WellFormedConfig c) : (2 : BitVec c.cw).toNat = 2 :=
  ofNat_toNat_of_lt (n := 2) (by have := four_lt_two_pow_cw h; omega)

theorem three_toNat {c : Config} (h : WellFormedConfig c) : (3 : BitVec c.cw).toNat = 3 :=
  ofNat_toNat_of_lt (n := 3) (by have := four_lt_two_pow_cw h; omega)

theorem one_toNat {c : Config} (h : WellFormedConfig c) : (1 : BitVec c.cw).toNat = 1 :=
  ofNat_toNat_of_lt (n := 1) (by have := four_lt_two_pow_cw h; omega)

/-- What `CatLookup` answers is a catalog entry (R140). -/
theorem isCatLookup_mem {c : Config} {j : Nat} {e : Entry} (h : IsCatLookup c j e) : e ∈ c.catalog := by
  unfold IsCatLookup at h
  split at h <;> exact List.mem_of_getElem? h

/-- The model's lookup is `CatLookup` wherever the catalog has an entry (R140). -/
theorem isCatLookup_catLookup {c : Config} (h : 1 ≤ c.nPat) (j : Nat) : IsCatLookup c j (catLookup c j) := by
  unfold IsCatLookup catLookup
  split
  next hj => simp [List.getD, List.getElem?_eq_getElem hj]
  next hj =>
    cases hc : c.catalog with
    | nil => simp [Config.nPat, hc] at h
    | cons e es => simp

theorem isCatLookup_unique {c : Config} {j : Nat} {e e' : Entry} (h : IsCatLookup c j e) (h' : IsCatLookup c j e') :
    e = e' := by
  unfold IsCatLookup at h h'
  exact Option.some.inj (h.symm.trans h')

end Sys2Proof.Laws
end

