-- ==== Sys2Proof/Laws/State.lean ====
section
/-! SUPPORT. One lemma per field for each named update of the state, each true by `rfl`. -/

namespace Sys2Proof.Machine

variable {c : Config} (r : Regs c) (s : State)

/-! ## The clock edge -/

@[simp] theorem State.afterEdge_cfg (q : Regs s.cfg) : (s.afterEdge q).cfg = s.cfg := rfl
@[simp] theorem State.afterEdge_store (q : Regs s.cfg) : (s.afterEdge q).store = s.store := rfl
@[simp] theorem State.afterEdge_regs (q : Regs s.cfg) : (s.afterEdge q).regs = q := rfl
@[simp] theorem State.afterEdge_inputs (q : Regs s.cfg) : (s.afterEdge q).inputs = s.inputs.drop 1 := rfl
@[simp] theorem State.afterEdge_drawIndex (q : Regs s.cfg) : (s.afterEdge q).drawIndex = s.drawIndex + 1 := rfl

@[simp] theorem State.later_cfg (n : Nat) (q : Regs s.cfg) : (s.later n q).cfg = s.cfg := rfl
@[simp] theorem State.later_store (n : Nat) (q : Regs s.cfg) : (s.later n q).store = s.store := rfl
@[simp] theorem State.later_regs (n : Nat) (q : Regs s.cfg) : (s.later n q).regs = q := rfl
@[simp] theorem State.later_inputs (n : Nat) (q : Regs s.cfg) : (s.later n q).inputs = s.inputs.drop n := rfl
@[simp] theorem State.later_drawIndex (n : Nat) (q : Regs s.cfg) : (s.later n q).drawIndex = s.drawIndex + n := rfl

/-- The state after an edge is the state one cycle on. -/
theorem State.afterEdge_eq_later (q : Regs s.cfg) : s.afterEdge q = s.later 1 q := rfl

/-- `n` cycles and then `m` more are `n + m` cycles. -/
theorem State.later_later (n m : Nat) (q q' : Regs s.cfg) :
    State.later (s.later n q) m q' = s.later (n + m) q' := by
  simp [State.later, List.drop_drop, Nat.add_assoc]

@[simp] theorem State.later_inj (n : Nat) (q q' : Regs s.cfg) : s.later n q = s.later n q' ↔ q = q' := by
  simp [State.later]

@[simp] theorem State.later_storeByte (n : Nat) (q : Regs s.cfg) (a : Nat) :
    (s.later n q).storeByte a = s.storeByte a := rfl

/-- `q` leaves the byte `MemRead` returns alone. -/
@[simp] theorem State.later_memRead (n : Nat) (q : Regs s.cfg) (a : BitVec s.cfg.cw) :
    (s.later n q).memRead a = s.memRead a := rfl

/-- The inputs of a later state are the same waveform, further on. -/
@[simp] theorem State.later_portInAt (n j : Nat) (q : Regs s.cfg) :
    (s.later n q).portInAt j = s.portInAt (n + j) := by
  simp [State.portInAt, State.later, List.getD, List.getElem?_drop, Nat.add_assoc]

@[simp] theorem State.later_portIn (n : Nat) (q : Regs s.cfg) : (s.later n q).portIn = s.portInAt n := by
  simp [State.portIn]

/-! ## Placing a code -/

@[simp] theorem State.placeCode_cfg (w : Code) : (s.placeCode w).cfg = s.cfg := rfl
@[simp] theorem State.placeCode_store (w : Code) : (s.placeCode w).store = s.store := rfl
@[simp] theorem State.placeCode_S (w : Code) : (s.placeCode w).regs.S = w := rfl
@[simp] theorem State.placeCode_rst (w : Code) : (s.placeCode w).portIn.rst = false := rfl
@[simp] theorem State.placeCode_btnSpeed (w : Code) : (s.placeCode w).portIn.btnSpeed = s.portIn.btnSpeed := rfl
@[simp] theorem State.placeCode_btnPattern (w : Code) : (s.placeCode w).portIn.btnPattern = s.portIn.btnPattern := rfl

/-! ## The synchroniser -/

section Synchronise

variable (p : PortIn)

@[simp] theorem Regs.synchronise_S : (r.synchronise p).S = r.S := rfl
@[simp] theorem Regs.synchronise_dir : (r.synchronise p).dir = r.dir := rfl
@[simp] theorem Regs.synchronise_k : (r.synchronise p).k = r.k := rfl
@[simp] theorem Regs.synchronise_bitcnt : (r.synchronise p).bitcnt = r.bitcnt := rfl
@[simp] theorem Regs.synchronise_shreg : (r.synchronise p).shreg = r.shreg := rfl
@[simp] theorem Regs.synchronise_i : (r.synchronise p).i = r.i := rfl
@[simp] theorem Regs.synchronise_eStart : (r.synchronise p).eStart = r.eStart := rfl
@[simp] theorem Regs.synchronise_eLen : (r.synchronise p).eLen = r.eLen := rfl
@[simp] theorem Regs.synchronise_ticks : (r.synchronise p).ticks = r.ticks := rfl
@[simp] theorem Regs.synchronise_pre : (r.synchronise p).pre = r.pre := rfl
@[simp] theorem Regs.synchronise_idx : (r.synchronise p).idx = r.idx := rfl
@[simp] theorem Regs.synchronise_rev : (r.synchronise p).rev = r.rev := rfl
@[simp] theorem Regs.synchronise_delay : (r.synchronise p).delay = r.delay := rfl
@[simp] theorem Regs.synchronise_sw : (r.synchronise p).sw = r.sw := rfl
@[simp] theorem Regs.synchronise_spdLatch : (r.synchronise p).spdLatch = r.spdLatch := rfl
@[simp] theorem Regs.synchronise_patLatch : (r.synchronise p).patLatch = r.patLatch := rfl
@[simp] theorem Regs.synchronise_spdS1 : (r.synchronise p).spdS1 = p.btnSpeed := rfl
@[simp] theorem Regs.synchronise_spdS2 : (r.synchronise p).spdS2 = r.spdS1 := rfl
@[simp] theorem Regs.synchronise_patS1 : (r.synchronise p).patS1 = p.btnPattern := rfl
@[simp] theorem Regs.synchronise_patS2 : (r.synchronise p).patS2 = r.patS1 := rfl

end Synchronise

/-! ## Loading the shifter and the delay counter -/

section Loads

variable (b : Byte) (k : Bool)

@[simp] theorem Regs.loadShifter_S : (r.loadShifter b k).S = encode .shiftLo := rfl
@[simp] theorem Regs.loadShifter_dir : (r.loadShifter b k).dir = r.dir := rfl
@[simp] theorem Regs.loadShifter_k : (r.loadShifter b k).k = k := rfl
@[simp] theorem Regs.loadShifter_bitcnt : (r.loadShifter b k).bitcnt = 0 := rfl
@[simp] theorem Regs.loadShifter_shreg : (r.loadShifter b k).shreg = b := rfl
@[simp] theorem Regs.loadShifter_i : (r.loadShifter b k).i = r.i := rfl
@[simp] theorem Regs.loadShifter_eStart : (r.loadShifter b k).eStart = r.eStart := rfl
@[simp] theorem Regs.loadShifter_eLen : (r.loadShifter b k).eLen = r.eLen := rfl
@[simp] theorem Regs.loadShifter_ticks : (r.loadShifter b k).ticks = r.ticks := rfl
@[simp] theorem Regs.loadShifter_pre : (r.loadShifter b k).pre = r.pre := rfl
@[simp] theorem Regs.loadShifter_idx : (r.loadShifter b k).idx = r.idx := rfl
@[simp] theorem Regs.loadShifter_rev : (r.loadShifter b k).rev = r.rev := rfl
@[simp] theorem Regs.loadShifter_delay : (r.loadShifter b k).delay = r.delay := rfl
@[simp] theorem Regs.loadShifter_sw : (r.loadShifter b k).sw = r.sw := rfl
@[simp] theorem Regs.loadShifter_spdLatch : (r.loadShifter b k).spdLatch = r.spdLatch := rfl
@[simp] theorem Regs.loadShifter_patLatch : (r.loadShifter b k).patLatch = r.patLatch := rfl
@[simp] theorem Regs.loadShifter_spdS1 : (r.loadShifter b k).spdS1 = r.spdS1 := rfl
@[simp] theorem Regs.loadShifter_spdS2 : (r.loadShifter b k).spdS2 = r.spdS2 := rfl
@[simp] theorem Regs.loadShifter_patS1 : (r.loadShifter b k).patS1 = r.patS1 := rfl
@[simp] theorem Regs.loadShifter_patS2 : (r.loadShifter b k).patS2 = r.patS2 := rfl

@[simp] theorem Regs.loadDelayCounter_S : r.loadDelayCounter.S = encode .delay := rfl
@[simp] theorem Regs.loadDelayCounter_dir : r.loadDelayCounter.dir = r.dir := rfl
@[simp] theorem Regs.loadDelayCounter_k : r.loadDelayCounter.k = r.k := rfl
@[simp] theorem Regs.loadDelayCounter_bitcnt : r.loadDelayCounter.bitcnt = r.bitcnt := rfl
@[simp] theorem Regs.loadDelayCounter_shreg : r.loadDelayCounter.shreg = r.shreg := rfl
@[simp] theorem Regs.loadDelayCounter_i : r.loadDelayCounter.i = r.i := rfl
@[simp] theorem Regs.loadDelayCounter_eStart : r.loadDelayCounter.eStart = r.eStart := rfl
@[simp] theorem Regs.loadDelayCounter_eLen : r.loadDelayCounter.eLen = r.eLen := rfl
@[simp] theorem Regs.loadDelayCounter_ticks : r.loadDelayCounter.ticks = r.delay := rfl
@[simp] theorem Regs.loadDelayCounter_pre : r.loadDelayCounter.pre = tickReload c := rfl
@[simp] theorem Regs.loadDelayCounter_idx : r.loadDelayCounter.idx = r.idx := rfl
@[simp] theorem Regs.loadDelayCounter_rev : r.loadDelayCounter.rev = r.rev := rfl
@[simp] theorem Regs.loadDelayCounter_delay : r.loadDelayCounter.delay = r.delay := rfl
@[simp] theorem Regs.loadDelayCounter_sw : r.loadDelayCounter.sw = r.sw := rfl
@[simp] theorem Regs.loadDelayCounter_spdLatch : r.loadDelayCounter.spdLatch = r.spdLatch := rfl
@[simp] theorem Regs.loadDelayCounter_patLatch : r.loadDelayCounter.patLatch = r.patLatch := rfl
@[simp] theorem Regs.loadDelayCounter_spdS1 : r.loadDelayCounter.spdS1 = r.spdS1 := rfl
@[simp] theorem Regs.loadDelayCounter_spdS2 : r.loadDelayCounter.spdS2 = r.spdS2 := rfl
@[simp] theorem Regs.loadDelayCounter_patS1 : r.loadDelayCounter.patS1 = r.patS1 := rfl
@[simp] theorem Regs.loadDelayCounter_patS2 : r.loadDelayCounter.patS2 = r.patS2 := rfl

end Loads

/-! ## Actions and polls: what they leave alone -/

@[simp] theorem Regs.speedAction_S : r.speedAction.S = r.S := rfl
@[simp] theorem Regs.speedAction_dir : r.speedAction.dir = r.dir := rfl
@[simp] theorem Regs.speedAction_k : r.speedAction.k = r.k := rfl
@[simp] theorem Regs.speedAction_bitcnt : r.speedAction.bitcnt = r.bitcnt := rfl
@[simp] theorem Regs.speedAction_shreg : r.speedAction.shreg = r.shreg := rfl
@[simp] theorem Regs.speedAction_i : r.speedAction.i = r.i := rfl
@[simp] theorem Regs.speedAction_eStart : r.speedAction.eStart = r.eStart := rfl
@[simp] theorem Regs.speedAction_eLen : r.speedAction.eLen = r.eLen := rfl
@[simp] theorem Regs.speedAction_ticks : r.speedAction.ticks = r.ticks := rfl
@[simp] theorem Regs.speedAction_pre : r.speedAction.pre = r.pre := rfl
@[simp] theorem Regs.speedAction_idx : r.speedAction.idx = r.idx := rfl
@[simp] theorem Regs.speedAction_rev : r.speedAction.rev = r.rev := rfl
@[simp] theorem Regs.speedAction_sw : r.speedAction.sw = r.sw := rfl
@[simp] theorem Regs.speedAction_spdLatch : r.speedAction.spdLatch = r.spdLatch := rfl
@[simp] theorem Regs.speedAction_patLatch : r.speedAction.patLatch = r.patLatch := rfl
@[simp] theorem Regs.speedAction_spdS1 : r.speedAction.spdS1 = r.spdS1 := rfl
@[simp] theorem Regs.speedAction_spdS2 : r.speedAction.spdS2 = r.spdS2 := rfl
@[simp] theorem Regs.speedAction_patS1 : r.speedAction.patS1 = r.patS1 := rfl
@[simp] theorem Regs.speedAction_patS2 : r.speedAction.patS2 = r.patS2 := rfl

@[simp] theorem Regs.patternAction_S : r.patternAction.S = r.S := by
  unfold Regs.patternAction; split <;> rfl
@[simp] theorem Regs.patternAction_dir : r.patternAction.dir = r.dir := by
  unfold Regs.patternAction; split <;> rfl
@[simp] theorem Regs.patternAction_k : r.patternAction.k = r.k := by
  unfold Regs.patternAction; split <;> rfl
@[simp] theorem Regs.patternAction_bitcnt : r.patternAction.bitcnt = r.bitcnt := by
  unfold Regs.patternAction; split <;> rfl
@[simp] theorem Regs.patternAction_shreg : r.patternAction.shreg = r.shreg := by
  unfold Regs.patternAction; split <;> rfl
@[simp] theorem Regs.patternAction_i : r.patternAction.i = r.i := by
  unfold Regs.patternAction; split <;> rfl
@[simp] theorem Regs.patternAction_eStart : r.patternAction.eStart = r.eStart := by
  unfold Regs.patternAction; split <;> rfl
@[simp] theorem Regs.patternAction_eLen : r.patternAction.eLen = r.eLen := by
  unfold Regs.patternAction; split <;> rfl
@[simp] theorem Regs.patternAction_ticks : r.patternAction.ticks = r.ticks := by
  unfold Regs.patternAction; split <;> rfl
@[simp] theorem Regs.patternAction_pre : r.patternAction.pre = r.pre := by
  unfold Regs.patternAction; split <;> rfl
@[simp] theorem Regs.patternAction_delay : r.patternAction.delay = r.delay := by
  unfold Regs.patternAction; split <;> rfl
@[simp] theorem Regs.patternAction_spdLatch : r.patternAction.spdLatch = r.spdLatch := by
  unfold Regs.patternAction; split <;> rfl
@[simp] theorem Regs.patternAction_patLatch : r.patternAction.patLatch = r.patLatch := by
  unfold Regs.patternAction; split <;> rfl
@[simp] theorem Regs.patternAction_spdS1 : r.patternAction.spdS1 = r.spdS1 := by
  unfold Regs.patternAction; split <;> rfl
@[simp] theorem Regs.patternAction_spdS2 : r.patternAction.spdS2 = r.spdS2 := by
  unfold Regs.patternAction; split <;> rfl
@[simp] theorem Regs.patternAction_patS1 : r.patternAction.patS1 = r.patS1 := by
  unfold Regs.patternAction; split <;> rfl
@[simp] theorem Regs.patternAction_patS2 : r.patternAction.patS2 = r.patS2 := by
  unfold Regs.patternAction; split <;> rfl

@[simp] theorem Regs.pollPattern_S : r.pollPattern.S = r.S := by
  unfold Regs.pollPattern; repeat' split
  all_goals simp
@[simp] theorem Regs.pollPattern_dir : r.pollPattern.dir = r.dir := by
  unfold Regs.pollPattern; repeat' split
  all_goals simp
@[simp] theorem Regs.pollPattern_k : r.pollPattern.k = r.k := by
  unfold Regs.pollPattern; repeat' split
  all_goals simp
@[simp] theorem Regs.pollPattern_bitcnt : r.pollPattern.bitcnt = r.bitcnt := by
  unfold Regs.pollPattern; repeat' split
  all_goals simp
@[simp] theorem Regs.pollPattern_shreg : r.pollPattern.shreg = r.shreg := by
  unfold Regs.pollPattern; repeat' split
  all_goals simp
@[simp] theorem Regs.pollPattern_i : r.pollPattern.i = r.i := by
  unfold Regs.pollPattern; repeat' split
  all_goals simp
@[simp] theorem Regs.pollPattern_eStart : r.pollPattern.eStart = r.eStart := by
  unfold Regs.pollPattern; repeat' split
  all_goals simp
@[simp] theorem Regs.pollPattern_eLen : r.pollPattern.eLen = r.eLen := by
  unfold Regs.pollPattern; repeat' split
  all_goals simp
@[simp] theorem Regs.pollPattern_ticks : r.pollPattern.ticks = r.ticks := by
  unfold Regs.pollPattern; repeat' split
  all_goals simp
@[simp] theorem Regs.pollPattern_pre : r.pollPattern.pre = r.pre := by
  unfold Regs.pollPattern; repeat' split
  all_goals simp
@[simp] theorem Regs.pollPattern_delay : r.pollPattern.delay = r.delay := by
  unfold Regs.pollPattern; repeat' split
  all_goals simp
@[simp] theorem Regs.pollPattern_spdLatch : r.pollPattern.spdLatch = r.spdLatch := by
  unfold Regs.pollPattern; repeat' split
  all_goals simp
@[simp] theorem Regs.pollPattern_spdS1 : r.pollPattern.spdS1 = r.spdS1 := by
  unfold Regs.pollPattern; repeat' split
  all_goals simp
@[simp] theorem Regs.pollPattern_spdS2 : r.pollPattern.spdS2 = r.spdS2 := by
  unfold Regs.pollPattern; repeat' split
  all_goals simp
@[simp] theorem Regs.pollPattern_patS1 : r.pollPattern.patS1 = r.patS1 := by
  unfold Regs.pollPattern; repeat' split
  all_goals simp
@[simp] theorem Regs.pollPattern_patS2 : r.pollPattern.patS2 = r.patS2 := by
  unfold Regs.pollPattern; repeat' split
  all_goals simp

@[simp] theorem Regs.poll_S : r.poll.S = r.S := by
  unfold Regs.poll; repeat' split
  all_goals simp
@[simp] theorem Regs.poll_dir : r.poll.dir = r.dir := by
  unfold Regs.poll; repeat' split
  all_goals simp
@[simp] theorem Regs.poll_k : r.poll.k = r.k := by
  unfold Regs.poll; repeat' split
  all_goals simp
@[simp] theorem Regs.poll_bitcnt : r.poll.bitcnt = r.bitcnt := by
  unfold Regs.poll; repeat' split
  all_goals simp
@[simp] theorem Regs.poll_shreg : r.poll.shreg = r.shreg := by
  unfold Regs.poll; repeat' split
  all_goals simp
@[simp] theorem Regs.poll_i : r.poll.i = r.i := by
  unfold Regs.poll; repeat' split
  all_goals simp
@[simp] theorem Regs.poll_eStart : r.poll.eStart = r.eStart := by
  unfold Regs.poll; repeat' split
  all_goals simp
@[simp] theorem Regs.poll_eLen : r.poll.eLen = r.eLen := by
  unfold Regs.poll; repeat' split
  all_goals simp
@[simp] theorem Regs.poll_ticks : r.poll.ticks = r.ticks := by
  unfold Regs.poll; repeat' split
  all_goals simp
@[simp] theorem Regs.poll_pre : r.poll.pre = r.pre := by
  unfold Regs.poll; repeat' split
  all_goals simp
@[simp] theorem Regs.poll_spdS1 : r.poll.spdS1 = r.spdS1 := by
  unfold Regs.poll; repeat' split
  all_goals simp
@[simp] theorem Regs.poll_spdS2 : r.poll.spdS2 = r.spdS2 := by
  unfold Regs.poll; repeat' split
  all_goals simp
@[simp] theorem Regs.poll_patS1 : r.poll.patS1 = r.patS1 := by
  unfold Regs.poll; repeat' split
  all_goals simp
@[simp] theorem Regs.poll_patS2 : r.poll.patS2 = r.patS2 := by
  unfold Regs.poll; repeat' split
  all_goals simp

end Sys2Proof.Machine
end

