-- ==== Sys2Proof/Laws/Debouncer.lean ====
section
/-! SUPPORT. What the actions and a poll do, in the numbers of R124, R125 and R121. -/

namespace Sys2Proof.Laws

open Sys2Proof.Machine

variable {c : Config} (r : Regs c)

theorem steppedDelay_toNat : r.steppedDelay.toNat = (r.delay.toNat + c.delayStep) % 2 ^ (c.dw + 1) := by
  have h : r.delay.toNat < 2 ^ (c.dw + 1) := by
    have := r.delay.isLt
    rw [Nat.pow_succ]; omega
  simp [Regs.steppedDelay, Nat.mod_eq_of_lt h, Nat.add_mod]

theorem steppedIdx_toNat : r.steppedIdx.toNat = r.idx.toNat + 1 := by
  have h := r.idx.isLt
  have h2 : 2 ^ (c.iw + 1) = 2 * 2 ^ c.iw := by rw [Nat.pow_succ]; omega
  have hp : 0 < 2 ^ c.iw := Nat.two_pow_pos _
  simp only [Regs.steppedIdx, BitVec.toNat_add, BitVec.toNat_setWidth, BitVec.ofNat_eq_ofNat, BitVec.toNat_ofNat]
  rw [Nat.mod_eq_of_lt (a := r.idx.toNat) (by omega), Nat.mod_eq_of_lt (a := 1) (by omega), Nat.mod_eq_of_lt (by omega)]

/-- The speed action (R124). -/
theorem speedAction_acted : SpeedActed r r.speedAction := by
  unfold SpeedActed levelAfterSpeedAction
  simp only [Regs.speedAction, Regs.delayWraps, steppedDelay_toNat, decide_eq_true_eq]
  split <;> simp [steppedDelay_toNat]

/-- The pattern action (R125). -/
theorem patternAction_acted : PatternActed r r.patternAction := by
  unfold PatternActed idxAfterAdvance Regs.patternAction
  split
  · refine ⟨rfl, ?_, rfl⟩
    simp only [Regs.idxWraps, steppedIdx_toNat, decide_eq_true_eq]
    split <;> simp [steppedIdx_toNat]
  · exact ⟨rfl, rfl, rfl⟩

/-- A poll (R121, R122, R123). -/
theorem poll_polled : Polled r r.poll := by
  by_cases hs : r.spdS2 = true ∧ r.spdLatch = false
  · have hf : r.fireSpd = true := by simp [Regs.fireSpd, hs.1, hs.2]
    have ha := speedAction_acted ({ r with spdLatch := true } : Regs c)
    simp only [Polled, if_pos hs, Regs.poll, hf, if_true]
    exact ⟨rfl, ha, rfl, rfl, rfl, rfl⟩
  · have hf : r.fireSpd = false := by
      simp only [Regs.fireSpd]
      cases h1 : r.spdS2 <;> cases h2 : r.spdLatch <;> simp_all
    have key : ∀ q : Regs c, q.idx = r.idx → q.rev = r.rev → q.sw = r.sw → q.patS2 = r.patS2 →
        q.patLatch = r.patLatch →
        if r.patS2 = true ∧ r.patLatch = false then q.pollPattern.patLatch = true ∧ PatternActed r q.pollPattern
        else q.pollPattern.patLatch = (if r.patS2 then r.patLatch else false) ∧ q.pollPattern.idx = r.idx ∧
          q.pollPattern.rev = r.rev ∧ q.pollPattern.sw = r.sw := by
      intro q h1 h2 h3 h4 h5
      by_cases hp : r.patS2 = true ∧ r.patLatch = false
      · have hq : q.firePat = true := by simp [Regs.firePat, h4, h5, hp.1, hp.2]
        have ha := patternAction_acted ({ q with patLatch := true } : Regs c)
        rw [if_pos hp]
        simp only [Regs.pollPattern, hq, if_true, Regs.patternAction_patLatch, true_and]
        simpa [PatternActed, idxAfterAdvance, h1, h2, h3] using ha
      · have hq : q.firePat = false := by
          simp only [Regs.firePat, h4, h5]
          cases h1 : r.patS2 <;> cases h2 : r.patLatch <;> simp_all
        rw [if_neg hp]
        simp only [Regs.pollPattern, hq]
        cases hb : r.patS2 <;> simp [h4, hb, h1, h2, h3, h5]
    simp only [Polled, if_neg hs, Regs.poll, hf]
    cases hb : r.spdS2
    · exact ⟨by simp, by simp, by
        simpa [hb] using key ({ r with spdLatch := false } : Regs c) rfl rfl rfl (by simp) rfl⟩
    · exact ⟨by simp, by simp, by simpa [hb] using key r rfl rfl rfl rfl rfl⟩

end Sys2Proof.Laws
end

