-- ==== Sys2Proof/Laws/Operands.lean ====
section
/-! SUPPORT. The computed operands as numbers, in the states the invariants describe: no offset wraps (R73, D15). -/

namespace Sys2Proof.Laws

open Sys2Proof.Machine

variable {s : State}

theorem inv_config (h : Inv s) : WellFormedConfig s.cfg := (wf_iff _).1 h.config

/-- Past FWD_INIT the latched entry is an entry of the catalog, so it is even, long enough and inside the store. -/
theorem inv_latched (h : Inv s) (hS : s.regs.S ≠ 0x0#4) :
    s.regs.eLen.toNat % 2 = 0 ∧ 4 ≤ s.regs.eLen.toNat ∧
      s.regs.eStart.toNat + s.regs.eLen.toNat ≤ s.cfg.storeSize ∧
      s.regs.eStart.toNat + s.regs.eLen.toNat < 2 ^ s.cfg.cw := by
  have hw := inv_config h
  rcases h.entry with he | ⟨e, he, h1, h2⟩
  · exact absurd he.1 hS
  · rw [h1, h2]
    exact ⟨hw.lenEven e he, hw.lenMin e he, hw.inStore e he, entry_lt_two_pow_cw hw he⟩

/-- `E` does not wrap. -/
theorem rangeEnd_toNat {c : Config} {r : Regs c} (h : r.eStart.toNat + r.eLen.toNat < 2 ^ c.cw) :
    r.rangeEnd.toNat = r.eStart.toNat + r.eLen.toNat := by
  rw [Regs.rangeEnd, BitVec.toNat_add, Nat.mod_eq_of_lt h]

theorem inv_rangeEnd (h : Inv s) (hS : s.regs.S ≠ 0x0#4) :
    s.regs.rangeEnd.toNat = s.regs.eStart.toNat + s.regs.eLen.toNat :=
  rangeEnd_toNat (inv_latched h hS).2.2.2

/-- The reverse start does not underflow (R148). -/
theorem reverseStart_toNat {c : Config} {r : Regs c} (hc : WellFormedConfig c)
    (h : r.eStart.toNat + r.eLen.toNat < 2 ^ c.cw) (h3 : 3 ≤ r.eLen.toNat) :
    r.reverseStart.toNat + 3 = r.eStart.toNat + r.eLen.toNat := by
  have h4 : (r.eStart + r.eLen).toNat = _ := rangeEnd_toNat h
  have h5 := three_toNat hc
  rw [Regs.reverseStart, BitVec.toNat_sub_of_le (by rw [BitVec.le_def]; omega)]
  omega

/-- Forward, the pair is `(i, i + 1)`. -/
theorem pair_forward {c : Config} {r : Regs c} (hc : WellFormedConfig c) (hd : r.dir = false)
    (h : r.i.toNat + 2 ≤ 2 ^ c.cw) : r.aFirst.toNat = r.i.toNat ∧ r.aSecond.toNat = r.i.toNat + 1 := by
  simp only [Regs.aFirst, Regs.aSecond, hd, Bool.false_eq_true, if_false, true_and]
  rw [BitVec.toNat_add, one_toNat hc, Nat.mod_eq_of_lt (by omega)]

/-- In reverse, the pair is `(i - 1, i)`. -/
theorem pair_reverse {c : Config} {r : Regs c} (hc : WellFormedConfig c) (hd : r.dir = true)
    (h : 1 ≤ r.i.toNat) : r.aFirst.toNat + 1 = r.i.toNat ∧ r.aSecond.toNat = r.i.toNat := by
  have h1 := one_toNat hc
  simp only [Regs.aFirst, Regs.aSecond, hd, if_true, and_true]
  rw [BitVec.toNat_sub_of_le (by rw [BitVec.le_def]; omega)]
  omega

/-- `i + 2` does not wrap below the width's end (R146). -/
theorem nextOffset_forward {c : Config} {r : Regs c} (hc : WellFormedConfig c) (hd : r.dir = false)
    (h : r.i.toNat + 2 < 2 ^ c.cw) : r.nextOffset.toNat = r.i.toNat + 2 := by
  simp only [Regs.nextOffset, hd, Bool.false_eq_true, if_false]
  rw [BitVec.toNat_add, two_toNat hc, Nat.mod_eq_of_lt h]

/-- `i - 2` does not underflow (R146). -/
theorem nextOffset_reverse {c : Config} {r : Regs c} (hc : WellFormedConfig c) (hd : r.dir = true)
    (h : 2 ≤ r.i.toNat) : r.nextOffset.toNat + 2 = r.i.toNat := by
  have h2 := two_toNat hc
  simp only [Regs.nextOffset, hd, if_true]
  rw [BitVec.toNat_sub_of_le (by rw [BitVec.le_def]; omega)]
  omega

/-- `e_start + 2` does not wrap (R142). -/
theorem reverseLimit_toNat {c : Config} {r : Regs c} (hc : WellFormedConfig c)
    (h : r.eStart.toNat + 2 < 2 ^ c.cw) : r.reverseLimit.toNat = r.eStart.toNat + 2 := by
  rw [Regs.reverseLimit, BitVec.toNat_add, two_toNat hc, Nat.mod_eq_of_lt h]

/-- An address inside the store survives the cut to `ADDR_W` bits. -/
theorem address_toNat {c : Config} (hc : WellFormedConfig c) {a : BitVec c.cw} (h : a.toNat < c.storeSize) :
    (a.setWidth c.addrW).toNat = a.toNat := by
  rw [BitVec.toNat_setWidth, Nat.mod_eq_of_lt (lt_of_lt_of_le h hc.storeAddr)]

theorem memRead_eq (hc : WellFormedConfig s.cfg) {a : BitVec s.cfg.cw} (h : a.toNat < s.cfg.storeSize) :
    s.memRead a = s.storeByte a.toNat := by
  rw [State.memRead, address_toNat hc h]

end Sys2Proof.Laws
end

