-- ==== Sys2Proof/Laws/Ops.lean ====
section
/-! SUPPORT. What each shared operation does, said once: the store, the clock edge, the load of `RESET_STATE`, an
operation and a step. -/

namespace Sys2Proof.Laws

open Sys2Proof.Machine

/-! ## The store -/

/-- A listed address reads as its byte. -/
theorem lookup_of_mem {m : List Host.Cell} (h : Memory.rising m = true) {a : Nat} {b : Byte} (hm : (a, b) ∈ m) :
    Memory.lookup m a = some b := by
  induction m with
  | nil => simp at hm
  | cons x rest ih =>
    obtain ⟨ax, bx⟩ := x
    have hr : Memory.rising rest = true := by
      cases rest with
      | nil => rfl
      | cons y ys => simp only [Memory.rising, Bool.and_eq_true] at h; exact h.2
    have key : ∀ (y : Host.Cell) (l : List Host.Cell), Memory.rising (y :: l) = true → ∀ z ∈ l, y.1 < z.1 := by
      intro y l
      induction l generalizing y with
      | nil => intro _ z hz; simp at hz
      | cons w ws ihw =>
        intro hrise z hz
        simp only [Memory.rising, Bool.and_eq_true, decide_eq_true_eq] at hrise
        rcases List.mem_cons.mp hz with rfl | hz
        · exact hrise.1
        · exact hrise.1.trans (ihw w hrise.2 z hz)
    rcases List.mem_cons.mp hm with heq | hm'
    · obtain ⟨rfl, rfl⟩ := Prod.mk.inj heq
      simp [Memory.lookup]
    · have hlt := key _ _ h _ hm'
      simp only [Memory.lookup]
      rw [if_neg (by simpa using (Nat.ne_of_gt hlt)), ih hr hm']

/-- An address the list leaves out has no listed byte. -/
theorem lookup_of_not_mem {m : List Host.Cell} {a : Nat} (h : ∀ x ∈ m, x.1 ≠ a) : Memory.lookup m a = none := by
  induction m with
  | nil => rfl
  | cons x rest ih =>
    simp only [Memory.lookup]
    rw [if_neg (fun he => h x (by simp) he.symm), ih (fun y hy => h y (by simp [hy]))]

/-- The clock edge keeps the store's canonical form: nothing writes the store (R53). -/
theorem afterEdge_storeForm (s : State) (r : Regs s.cfg) :
    Memory.wf (s.afterEdge r).cfg (s.afterEdge r).store = Memory.wf s.cfg s.store := rfl

/-- The store of the reset state is in canonical form. -/
theorem reset_storeForm : Memory.wf State.reset.cfg State.reset.store = true := by decide

/-- Placing a code keeps it too. -/
theorem placeCode_storeForm (s : State) (w : Code) :
    Memory.wf (s.placeCode w).cfg (s.placeCode w).store = Memory.wf s.cfg s.store := rfl

/-! ## Operations and steps -/

/-- The registers an operation leaves, the synchroniser's among them. -/
def execRegs (i : Instr) (s : State) : Regs s.cfg :=
  match i with
  | .fwdInit   => s.fwdInitRule.synchronise s.portIn
  | .check     => s.checkRule.synchronise s.portIn
  | .loadA     => s.loadARule.synchronise s.portIn
  | .loadB     => s.loadBRule.synchronise s.portIn
  | .shiftLo   => s.shiftLoRule.synchronise s.portIn
  | .shiftHi   => s.shiftHiRule.synchronise s.portIn
  | .latch     => s.latchRule.synchronise s.portIn
  | .poll1     => s.poll1Rule.synchronise s.portIn
  | .poll2     => s.poll2Rule.synchronise s.portIn
  | .delay     => s.delayRule.synchronise s.portIn
  | .poll3     => s.poll3Rule.synchronise s.portIn
  | .passEnd   => s.passEndRule.synchronise s.portIn
  | .revInit   => s.revInitRule.synchronise s.portIn
  | .reservedD => Regs.reset s.cfg
  | .reservedE => Regs.reset s.cfg
  | .reservedF => Regs.reset s.cfg

theorem clockEdge_eq (s : State) (r : Regs s.cfg) : s.clockEdge r = .next (s.later 1 (r.synchronise s.portIn)) := rfl

theorem loadResetState_eq (s : State) : s.loadResetState = .next (s.later 1 (Regs.reset s.cfg)) := rfl

/-- Every operation answers a next state that differs from the one before in its registers and its spent input only. -/
theorem exec_eq (i : Instr) (s : State) : exec i s = .next (s.later 1 (execRegs i s)) := by
  cases i <;> rfl

/-- The registers a step leaves. -/
def nextRegs (s : State) : Regs s.cfg :=
  if s.portIn.rst then Regs.reset s.cfg else execRegs (decodeCode s.regs.S) s

/-- A step under a well-formed configuration. -/
theorem step_eq {s : State} (h : s.cfg.wf = true) : step s = .next (s.later 1 (nextRegs s)) := by
  unfold step State.edge nextRegs
  rw [if_pos h]
  split
  · exact loadResetState_eq s
  · exact exec_eq _ s

/-- Everything a step can do when it answers a next state. -/
theorem step_next {s t : State} (h : step s = .next t) : s.cfg.wf = true ∧ t = s.later 1 (nextRegs s) := by
  by_cases hc : s.cfg.wf = true
  · rw [step_eq hc] at h
    exact ⟨hc, (Host.Outcome.next.inj h).symm⟩
  · rw [step, if_neg hc] at h
    cases h

/-! ## Runs -/

@[simp] theorem cycles_zero (s : State) : cycles 0 s = .next s := rfl

theorem cycles_succ {s t : State} (h : step s = .next t) (n : Nat) : cycles (n + 1) s = cycles n t := by
  simp [cycles, h]

theorem cycles_add {s t : State} {n : Nat} (h : cycles n s = .next t) (m : Nat) : cycles (n + m) s = cycles m t := by
  induction n generalizing s with
  | zero => simp only [cycles, Host.Outcome.next.injEq] at h; simp [h]
  | succ n ih =>
    rw [show n + 1 + m = n + m + 1 by omega]
    cases hs : step s with
    | next u => rw [cycles_succ hs] at h ⊢; exact ih h
    | fault f => simp [cycles, hs] at h
    | refused f => simp [cycles, hs] at h

theorem observe_add {s t : State} {n : Nat} (h : cycles n s = .next t) (m : Nat) :
    observe (n + m) s = observe n s ++ observe m t := by
  induction n generalizing s with
  | zero => simp only [cycles, Host.Outcome.next.injEq] at h; simp [observe, h]
  | succ n ih =>
    rw [show n + 1 + m = n + m + 1 by omega]
    cases hs : step s with
    | next u => rw [cycles_succ hs] at h; simp [observe, hs, ih h]
    | fault f => simp [cycles, hs] at h
    | refused f => simp [cycles, hs] at h

theorem trace_add {s t : State} {n : Nat} (h : cycles n s = .next t) (m : Nat) :
    trace (n + m) s = trace n s ++ trace m t := by
  induction n generalizing s with
  | zero => simp only [cycles, Host.Outcome.next.injEq] at h; simp [trace, h]
  | succ n ih =>
    rw [show n + 1 + m = n + m + 1 by omega]
    cases hs : step s with
    | next u => rw [cycles_succ hs] at h; simp [trace, hs, ih h]
    | fault f => simp [cycles, hs] at h
    | refused f => simp [cycles, hs] at h

/-- An invariant that every step keeps holds after any number of cycles. -/
theorem cycles_induct {P : State → Prop} (hstep : ∀ s t, P s → step s = .next t → P t) {n : Nat} {s t : State}
    (hs : P s) (h : cycles n s = .next t) : P t := by
  induction n generalizing s with
  | zero => simp only [cycles, Host.Outcome.next.injEq] at h; exact h ▸ hs
  | succ n ih =>
    cases hu : step s with
    | next u => rw [cycles_succ hu] at h; exact ih (hstep s u hs hu) h
    | fault f => simp [cycles, hu] at h
    | refused f => simp [cycles, hu] at h

/-- The model's `cycles` is the host's run of the same machine. -/
theorem run_next_of_cycles {n : Nat} {s t : State} (h : cycles n s = .next t) : Sys2Proof.core.run n s = .next t := by
  induction n generalizing s with
  | zero => exact h
  | succ n ih =>
    cases hu : step s with
    | next u => rw [cycles_succ hu] at h; simpa [Host.Core.run, Sys2Proof.core, hu] using ih h
    | fault f => simp [cycles, hu] at h
    | refused f => simp [cycles, hu] at h

end Sys2Proof.Laws
end

