-- ==== Sys2Proof/Laws/PerInstr.lean ====
section
/-! SUPPORT. Statements made of every operation, one lemma per constructor: the opcode table's numbering of a word. -/

namespace Sys2Proof.Laws.TableWord

/-- The operation's code, as the opcode table numbers its bits, is read back by the table's decoder, in the four bits of
format `STATE4` and in a whole byte (R70, R71). -/
def Statement (i : Instr) : Prop :=
  decodeTableWord 4 (encode i).toNat = some i ∧ decodeTableWord 8 (encode i).toNat = some i

theorem fwdInit : Statement .fwdInit := ⟨by decide, by decide⟩
theorem check : Statement .check := ⟨by decide, by decide⟩
theorem loadA : Statement .loadA := ⟨by decide, by decide⟩
theorem loadB : Statement .loadB := ⟨by decide, by decide⟩
theorem shiftLo : Statement .shiftLo := ⟨by decide, by decide⟩
theorem shiftHi : Statement .shiftHi := ⟨by decide, by decide⟩
theorem latch : Statement .latch := ⟨by decide, by decide⟩
theorem poll1 : Statement .poll1 := ⟨by decide, by decide⟩
theorem poll2 : Statement .poll2 := ⟨by decide, by decide⟩
theorem delay : Statement .delay := ⟨by decide, by decide⟩
theorem poll3 : Statement .poll3 := ⟨by decide, by decide⟩
theorem passEnd : Statement .passEnd := ⟨by decide, by decide⟩
theorem revInit : Statement .revInit := ⟨by decide, by decide⟩
theorem reservedD : Statement .reservedD := ⟨by decide, by decide⟩
theorem reservedE : Statement .reservedE := ⟨by decide, by decide⟩
theorem reservedF : Statement .reservedF := ⟨by decide, by decide⟩

end Sys2Proof.Laws.TableWord
end

