-- ==== Sys2Proof/Laws/Runs.lean ====
section
/-! SUPPORT. A run of `n` cycles as one expression: the registers it leaves, its outputs and its trace. -/

namespace Sys2Proof.Laws

open Sys2Proof.Machine

/-- The edge of a cycle without a reset runs the operation of its code. -/
theorem nextRegs_of {s : State} (hr : s.portIn.rst = false) {w : Code} (hS : s.regs.S = w) :
    nextRegs s = execRegs (decodeCode w) s := by
  simp [nextRegs, hr, hS]

/-- The registers after `n` cycles. -/
def regsAfter (s : State) : Nat → Regs s.cfg
  | 0 => s.regs
  | n + 1 => nextRegs (s.later n (regsAfter s n))

/-- The state after `n` cycles. -/
def stateAfter (s : State) (n : Nat) : State := s.later n (regsAfter s n)

@[simp] theorem regsAfter_zero (s : State) : regsAfter s 0 = s.regs := rfl
@[simp] theorem stateAfter_zero (s : State) : stateAfter s 0 = s := rfl
@[simp] theorem stateAfter_cfg (s : State) (n : Nat) : (stateAfter s n).cfg = s.cfg := rfl
@[simp] theorem stateAfter_regs (s : State) (n : Nat) : (stateAfter s n).regs = regsAfter s n := rfl
@[simp] theorem stateAfter_memRead (s : State) (n : Nat) (a : BitVec s.cfg.cw) :
    (stateAfter s n).memRead a = s.memRead a := rfl
@[simp] theorem stateAfter_storeByte (s : State) (n a : Nat) : (stateAfter s n).storeByte a = s.storeByte a := rfl
@[simp] theorem stateAfter_portInAt (s : State) (n j : Nat) : (stateAfter s n).portInAt j = s.portInAt (n + j) :=
  State.later_portInAt s n j _
@[simp] theorem stateAfter_portIn (s : State) (n : Nat) : (stateAfter s n).portIn = s.portInAt n :=
  State.later_portIn s n _

theorem regsAfter_succ (s : State) (n : Nat) : regsAfter s (n + 1) = nextRegs (stateAfter s n) := rfl

/-- A run from a later state is the rest of the run. -/
theorem regsAfter_add (s : State) (n m : Nat) : regsAfter (stateAfter s n) m = regsAfter s (n + m) := by
  induction m with
  | zero => rfl
  | succ m ih =>
    have hl : (stateAfter s n).later m (regsAfter (stateAfter s n) m) = s.later (n + m) (regsAfter s (n + m)) :=
      (State.later_later s n m _ _).trans (by rw [ih])
    exact eq_of_heq (by
      show HEq (nextRegs ((stateAfter s n).later m (regsAfter (stateAfter s n) m)))
        (nextRegs (s.later (n + m) (regsAfter s (n + m))))
      rw [hl])

theorem stateAfter_add (s : State) (n m : Nat) : stateAfter (stateAfter s n) m = stateAfter s (n + m) :=
  (State.later_later s n m _ _).trans (by rw [regsAfter_add]; rfl)

theorem step_stateAfter {s : State} (h : s.cfg.wf = true) (n : Nat) :
    step (stateAfter s n) = .next (stateAfter s (n + 1)) :=
  (step_eq (s := stateAfter s n) h).trans (congrArg _ (State.later_later s n 1 _ _))

/-- `n` cycles under a well-formed configuration. -/
theorem cycles_eq {s : State} (h : s.cfg.wf = true) (n : Nat) : cycles n s = .next (stateAfter s n) := by
  induction n with
  | zero => rfl
  | succ n ih => rw [cycles_add ih 1, cycles_succ (step_stateAfter h n), cycles_zero]

theorem observe_eq {s : State} (h : s.cfg.wf = true) (n : Nat) :
    observe n s = (List.range n).map fun j => (stateAfter s j).outputs := by
  induction n with
  | zero => rfl
  | succ n ih =>
    rw [observe_add (cycles_eq h n) 1, ih, List.range_succ, List.map_append]
    simp [observe, step_eq (s := stateAfter s n) h]

theorem trace_eq {s : State} (h : s.cfg.wf = true) (n : Nat) :
    trace n s = (List.range n).map fun j => (stateAfter s j).currentInstr := by
  induction n with
  | zero => rfl
  | succ n ih =>
    rw [trace_add (cycles_eq h n) 1, ih, List.range_succ, List.map_append]
    simp [trace, step_eq (s := stateAfter s n) h]

/-- The edge that ends cycle `n` of a run, when no reset falls on it and the cycle's code is `w`. -/
theorem regsAfter_succ_of {s : State} {n : Nat} (hr : (s.portInAt n).rst = false) {w : Code}
    (hS : (regsAfter s n).S = w) : regsAfter s (n + 1) = execRegs (decodeCode w) (stateAfter s n) := by
  rw [regsAfter_succ]
  exact nextRegs_of (by rwa [stateAfter_portIn]) hS

/-- A run without resets is one for any shorter time. -/
theorem noReset_mono {s : State} {n m : Nat} (h : NoReset s n) (hm : m ≤ n) : NoReset s m := fun j hj => h j (by omega)

/-- The rest of a run without resets has none. -/
theorem noReset_stateAfter {s : State} {n k m : Nat} (h : NoReset s n) (hm : k + m ≤ n) :
    NoReset (stateAfter s k) m := fun j hj => by
  rw [stateAfter_portInAt]
  exact h (k + j) (by omega)

/-! ## The lengths and traces of steps -/

@[simp] theorem stepTrace_length (n : Nat) : (stepTrace n).length = 39 + n := by
  simp [stepTrace, byteTrace]; omega

@[simp] theorem stepsLength_nil (c : Config) : stepsLength c [] = 0 := rfl
@[simp] theorem stepsLength_cons (c : Config) (d : Nat) (ds : List Nat) :
    stepsLength c (d :: ds) = 39 + d * c.tickCycles + stepsLength c ds := by simp [stepsLength]
@[simp] theorem stepsTrace_nil (c : Config) : stepsTrace c [] = [] := rfl
@[simp] theorem stepsTrace_cons (c : Config) (d : Nat) (ds : List Nat) :
    stepsTrace c (d :: ds) = stepTrace (d * c.tickCycles) ++ stepsTrace c ds := by simp [stepsTrace]

/-- The trace of the steps is as long as the steps. -/
theorem stepsTrace_length (c : Config) (ds : List Nat) : (stepsTrace c ds).length = stepsLength c ds := by
  induction ds with
  | nil => rfl
  | cons d ds ih => simp [ih]

end Sys2Proof.Laws
end

