-- ==== Sys2Proof/Tests/Slice0.lean ====
section
/-! SUPPORT. Tests of one step each, whose expected results are the vectors of spec/95_test_vectors.md and the examples of
the rules, and the witnesses: concrete states that meet the hypotheses of the obligations. -/

namespace Sys2Proof.Tests

open Sys2Proof.Machine

/-! ## The configurations of 95_test_vectors.md, and small states over them -/

/-- REF: the reference configuration with `TICK_CYCLES = 1`. -/
def ref : Config := { Config.hw with fClkHz := 200, tickCycles := 1 }

/-- TC, the small test configuration. -/
def tc : Config := { ref with catalog := [⟨0, 6⟩, ⟨6, 4⟩], storeSize := 10 }

/-- TC's store: `STORE[a] = (a + 1) * 0x11`. -/
def tcStore : List Host.Cell :=
  [(0, 0x11#8), (1, 0x22#8), (2, 0x33#8), (3, 0x44#8), (4, 0x55#8), (5, 0x66#8), (6, 0x77#8), (7, 0x88#8),
   (8, 0x99#8), (9, 0xAA#8)]

/-- No reset and no button. -/
def released : PortIn := ⟨false, false, false⟩

/-- A state over a configuration and listed bytes, with 400 cycles without an input before it. -/
def withStore (c : Config) (m : List Host.Cell) (r : Regs c) : State := ⟨c, m, r, List.replicate 400 released, 0⟩

/-- A state over REF. -/
def inRef (r : Regs ref) : State := withStore ref [] r

/-- A state over TC. -/
def inTc (r : Regs tc) : State := withStore tc tcStore r

/-- What `f` reads in the next state, if there is one. -/
def next {α : Type} (o : Host.Outcome State Fault Refusal) (f : State → α) : Option α :=
  match o with
  | .next t => some (f t)
  | .fault _ => none
  | .refused _ => none

/-! ## Configurations: each check of R8 -/

theorem test_wf_accepts : ref.wf = true ∧ tc.wf = true ∧ Config.hw.wf = true := by decide

/-- `wf_npat`: an empty catalog, and one with more entries than `idx` has values. -/
theorem test_wf_npat_refuses :
    wfNPat { tc with catalog := [] } = false ∧ wfNPat { tc with iw := 0 } = false ∧
      ({ tc with catalog := [] } : Config).wf = false := by decide

theorem test_wf_len_even_refuses :
    wfLenEven { tc with catalog := [⟨0, 5⟩] } = false ∧ ({ tc with catalog := [⟨0, 5⟩] } : Config).wf = false := by decide

theorem test_wf_len_min_refuses :
    wfLenMin { tc with catalog := [⟨0, 2⟩] } = false ∧ ({ tc with catalog := [⟨0, 2⟩] } : Config).wf = false := by decide

theorem test_wf_in_store_refuses :
    wfInStore { tc with catalog := [⟨6, 6⟩] } = false ∧ ({ tc with catalog := [⟨6, 6⟩] } : Config).wf = false := by
  decide

theorem test_wf_store_addr_refuses :
    wfStoreAddr { tc with storeSize := 129 } = false ∧ ({ tc with storeSize := 129 } : Config).wf = false := by decide

theorem test_wf_delay_refuses :
    wfDelay { tc with delayBase := 0 } = false ∧ wfDelay { tc with delayBase := 39 } = false ∧
      wfDelay { tc with delayStep := 0 } = false ∧ wfDelay { tc with delayStep := 89 } = false ∧
      ({ tc with delayBase := 0 } : Config).wf = false := by decide

theorem test_wf_delay_reg_refuses :
    wfDelayReg { tc with delayWrap := 65 } = false ∧ ({ tc with delayWrap := 65 } : Config).wf = false := by decide

theorem test_wf_tick_refuses :
    wfTick { tc with tickCycles := 0 } = false ∧ ({ tc with tickCycles := 0 } : Config).wf = false := by decide

/-- R8: a model refuses it. -/
theorem test_malformed_is_refused :
    step (withStore { tc with catalog := [⟨0, 5⟩] } tcStore (Regs.reset _)) = .refused .malformedConfiguration :=
  if_neg (by decide)

/-- R7: `PW` is the least width `>= 1` with `2^PW >= TICK_CYCLES`. -/
theorem test_pw : [1, 2, 3, 4, 5, 80, 128, 129].map (fun n => ({ tc with tickCycles := n } : Config).pw) =
    [1, 1, 2, 2, 3, 7, 7, 8] := by decide

/-! ## Decoding: words written out from R71's column of bits -/

theorem test_decode_serializer :
    decodeTableWord 8 0b0010 = some .loadA ∧ decodeTableWord 8 0b0011 = some .loadB ∧
      decodeTableWord 8 0b0100 = some .shiftLo ∧ decodeTableWord 8 0b0101 = some .shiftHi ∧
      decodeTableWord 8 0b0110 = some .latch := by decide

theorem test_decode_sequencer :
    decodeTableWord 8 0b0000 = some .fwdInit ∧ decodeTableWord 8 0b0001 = some .check ∧
      decodeTableWord 8 0b0111 = some .poll1 ∧ decodeTableWord 8 0b1000 = some .poll2 ∧
      decodeTableWord 8 0b1001 = some .delay ∧ decodeTableWord 8 0b1010 = some .poll3 ∧
      decodeTableWord 8 0b1011 = some .passEnd ∧ decodeTableWord 8 0b1100 = some .revInit := by decide

theorem test_decode_reserved :
    decodeTableWord 8 0b1101 = some .reservedD ∧ decodeTableWord 8 0b1110 = some .reservedE ∧
      decodeTableWord 8 0b1111 = some .reservedF := by decide

theorem test_decode_refuses :
    decodeBytes [] = .error .noCode ∧ decodeBytes [0x10#8, 0x00#8] = .error .widerThanFourBits ∧
      decodeTableWord 8 0x12 = none ∧ decodeTableWord 16 0x0102 = none := by decide

/-- V-RST-2: FWD_INIT runs first; a placed code runs at once. -/
theorem test_withFetchWord :
    (inTc (Regs.reset tc)).currentInstr = .fwdInit ∧ ((inTc (Regs.reset tc)).withFetchWord 8 0b0110).currentInstr = .latch ∧
      next (step (State.reset.withFetchWord 8 0b0110)) (·.regs.S) = some 0x7#4 := by decide

/-! ## The store -/

theorem test_store_form :
    Memory.wf tc tcStore = true ∧ Memory.wf tc [(3, 0#8), (3, 1#8)] = false ∧ Memory.wf tc [(4, 0#8), (3, 1#8)] = false ∧
      Memory.wf tc [(128, 0#8)] = false := by decide

theorem test_store_read : (inTc (Regs.reset tc)).storeByte 0 = 0x11#8 ∧ (inTc (Regs.reset tc)).storeByte 9 = 0xAA#8 := by
  decide

/-- V-MEM-1. -/
theorem test_mem_addr :
    [(false, 48, 0x2), (false, 48, 0x3), (true, 53, 0x2), (true, 53, 0x3), (false, 56, 0x1), (true, 49, 0x1),
      (false, 128, 0x1)].map (fun (d, i, S) =>
        (inRef { Regs.reset ref with dir := d, i := BitVec.ofNat _ i, S := BitVec.ofNat 4 S }).outputs.memAddr) =
      [48, 49, 52, 53, 56, 48, 0] := by decide

/-! ## The serializer -/

/-- R100's example. -/
theorem test_loadA :
    next (exec .loadA (withStore ref [(48, 0xA5#8)] { Regs.reset ref with S := 0x2#4, i := 48, k := true, bitcnt := 5 }))
      (fun t => (t.regs.S, t.regs.shreg, t.regs.bitcnt, t.regs.k, t.outputs.serData)) =
      some (0x4#4, 0xA5#8, 0, false, true) := by decide

/-- R58, V-MEM-1: in reverse LOAD_A reads the lower address. -/
theorem test_loadA_reverse :
    next (exec .loadA (inTc { Regs.reset tc with S := 0x2#4, i := 3, dir := true })) (·.regs.shreg) = some 0x33#8 := by
  decide

/-- R101's example. -/
theorem test_loadB :
    next (exec .loadB (withStore ref [(53, 0x3C#8)] { Regs.reset ref with S := 0x3#4, i := 53, dir := true }))
      (fun t => (t.regs.S, t.regs.shreg, t.regs.bitcnt, t.regs.k, t.outputs.serData)) =
      some (0x4#4, 0x3C#8, 0, true, false) := by decide

/-- V-SER-4: forward LOAD_B reads the higher address. -/
theorem test_loadB_forward :
    next (exec .loadB (inTc { Regs.reset tc with S := 0x3#4 })) (·.regs.shreg) = some 0x22#8 := by decide

/-- R102's example. -/
theorem test_shiftLo :
    (inTc { Regs.reset tc with S := 0x4#4, shreg := 0xA5#8 }).outputs = ⟨true, false, false, 0⟩ ∧
      next (exec .shiftLo (inTc { Regs.reset tc with S := 0x4#4, shreg := 0xA5#8 }))
        (fun t => (t.regs.S, t.regs.shreg, t.regs.bitcnt)) = some (0x5#4, 0xA5#8, 0) := by decide

/-- R103's example. -/
theorem test_shiftHi :
    (inTc { Regs.reset tc with S := 0x5#4, shreg := 0xA5#8 }).outputs = ⟨true, true, false, 0⟩ ∧
      next (exec .shiftHi (inTc { Regs.reset tc with S := 0x5#4, shreg := 0xA5#8 }))
        (fun t => (t.regs.S, t.regs.shreg, t.regs.bitcnt, t.outputs.serData)) = some (0x4#4, 0x52#8, 1, false) := by
  decide

/-- V-SER-3. -/
theorem test_shiftHi_successors :
    [(3, false), (7, false), (7, true), (0, true)].map (fun (n, k) =>
      next (exec .shiftHi (inTc { Regs.reset tc with S := 0x5#4, shreg := 0x81#8, bitcnt := BitVec.ofNat 3 n, k := k }))
        (fun t => (t.regs.S.toNat, t.regs.bitcnt.toNat, t.regs.shreg.toNat))) =
      [some (0x4, 4, 0x40), some (0x3, 0, 0x40), some (0x6, 0, 0x40), some (0x4, 1, 0x40)] := by decide

/-- V-SER-5. -/
theorem test_latch :
    (inTc { Regs.reset tc with S := 0x6#4, k := true }).outputs = ⟨false, false, true, 0⟩ ∧
      next (exec .latch (inTc { Regs.reset tc with S := 0x6#4, k := true })) (·.regs.S) = some 0x7#4 := by decide

/-! ## The debouncers -/

/-- V-DEB-1 to V-DEB-4, of both buttons: the latch after, and whether the action ran. -/
theorem test_debouncer_rows :
    [(false, false), (false, true), (true, true), (true, false)].map (fun (l, s) =>
      let a := ({ Regs.reset ref with spdLatch := l, spdS2 := s } : Regs ref).poll
      let b := ({ Regs.reset ref with patLatch := l, patS2 := s } : Regs ref).poll
      (a.spdLatch, a.delay.toNat, b.patLatch, b.rev)) =
      [(false, 3, false, false), (true, 9, true, true), (true, 3, true, false), (false, 3, false, false)] := by decide

/-- V-DEB-5. -/
theorem test_speed_action :
    [3, 9, 15, 21, 27, 33, 35, 0].map (fun d =>
      ({ Regs.reset ref with delay := BitVec.ofNat _ d } : Regs ref).speedAction.delay.toNat) =
      [9, 15, 21, 27, 33, 3, 3, 6] := by decide

/-- V-DEB-6, rows 1 to 4 and 6. -/
theorem test_pattern_action :
    [(false, 3, false), (true, 3, false), (true, 4, false), (true, 2, true), (false, 4, true)].map (fun (v, x, w) =>
      let r := ({ Regs.reset ref with rev := v, idx := BitVec.ofNat _ x, sw := w } : Regs ref).patternAction
      (r.rev, r.idx.toNat, r.sw)) =
      [(true, 3, false), (false, 4, true), (false, 0, true), (false, 3, true), (true, 4, true)] := by decide

/-- V-DEB-6, row 5: `N_PAT = 1`. -/
theorem test_pattern_action_one_entry :
    (let r := ({ Regs.reset { ref with catalog := [⟨0, 32⟩] } with rev := true } : Regs _).patternAction
     (r.rev, r.idx.toNat, r.sw)) = (false, 0, true) := by decide

/-- V-DEB-8: a poll at which the speed button fires leaves the pattern latch alone; the next one clears it. -/
theorem test_pattern_skipped :
    ({ Regs.reset ref with spdS2 := true, patLatch := true } : Regs ref).poll.patLatch = true ∧
      ({ Regs.reset ref with spdS2 := true, patLatch := true } : Regs ref).poll.poll.patLatch = false := by decide

/-- R120: both stages move at one edge. -/
theorem test_synchroniser :
    next (step { inTc { Regs.reset tc with patS1 := true } with inputs := [⟨false, true, false⟩] })
      (fun t => (t.regs.spdS1, t.regs.spdS2, t.regs.patS1, t.regs.patS2)) = some (true, false, false, true) := by decide

/-! ## The sequencer -/

/-- V-SEQ-2. -/
theorem test_fwdInit :
    next (exec .fwdInit (inRef { Regs.reset ref with idx := 2, dir := true }))
      (fun t => (t.regs.eStart.toNat, t.regs.eLen.toNat, t.regs.i.toNat, t.regs.dir, t.regs.S)) =
      some (48, 8, 48, false, 0x1#4) := by decide

/-- V-SEQ-1: `CatLookup`, the fallback included. -/
theorem test_fwdInit_lookup :
    [0, 1, 2, 3, 4, 5, 6, 7].map (fun x =>
      next (exec .fwdInit (inRef { Regs.reset ref with idx := BitVec.ofNat _ x }))
        (fun t => (t.regs.eStart.toNat, t.regs.eLen.toNat))) =
      [some (0, 32), some (32, 16), some (48, 8), some (56, 32), some (88, 32), some (0, 32), some (0, 32),
        some (0, 32)] := by decide

/-- V-SEQ-3. -/
theorem test_check_forward :
    [(48, false), (54, false), (56, false), (50, true)].map (fun (i, w) =>
      next (exec .check (inRef
        { Regs.reset ref with S := 0x1#4, eStart := 48, eLen := 8, i := BitVec.ofNat _ i, sw := w })) (·.regs.S.toNat)) =
      [some 0x2, some 0x2, some 0xB, some 0xB] := by decide

/-- V-SEQ-4. -/
theorem test_check_reverse :
    [(53, false), (51, false), (49, false), (53, true)].map (fun (i, w) =>
      next (exec .check (inRef
        { Regs.reset ref with S := 0x1#4, dir := true, eStart := 48, eLen := 8, i := BitVec.ofNat _ i, sw := w }))
        (·.regs.S.toNat)) =
      [some 0x2, some 0x2, some 0xB, some 0xB] := by decide

/-- R143's example. -/
theorem test_poll1 :
    next (exec .poll1 (inRef { Regs.reset ref with S := 0x7#4, patS2 := true, rev := true }))
      (fun t => (t.regs.rev, t.regs.idx.toNat, t.regs.sw, t.regs.patLatch, t.regs.S)) =
      some (false, 1, true, true, 0x8#4) := by decide

/-- V-DEB-7, the poll at POLL1. -/
theorem test_poll1_both_buttons :
    next (exec .poll1 (inRef { Regs.reset ref with S := 0x7#4, patS2 := true, spdS2 := true }))
      (fun t => (t.regs.delay.toNat, t.regs.spdLatch, t.regs.patLatch, t.regs.rev)) = some (9, true, false, false) := by
  decide

/-- V-SEQ-6: no event, a speed event, a pattern event. -/
theorem test_poll2 :
    [(9, false, false), (33, true, false), (3, false, true)].map (fun (d, s, p) =>
      next (exec .poll2 (inRef
        { Regs.reset ref with S := 0x8#4, delay := BitVec.ofNat _ d, spdS2 := s, patS2 := p, pre := 1 }))
        (fun t => (t.regs.delay.toNat, t.regs.ticks.toNat, t.regs.pre.toNat, t.regs.S.toNat))) =
      [some (9, 9, 0, 0x9), some (3, 3, 0, 0x9), some (3, 3, 0, 0x9)] := by decide

/-- V-SEQ-7, each cycle of `TICK_CYCLES = 2`, `ticks = 3`, `pre = 1`. -/
theorem test_delay :
    [(1, 3), (0, 3), (1, 2), (0, 2), (1, 1), (0, 1)].map (fun (p, n) =>
      next (exec .delay (withStore { ref with tickCycles := 2 } []
        { Regs.reset _ with S := 0x9#4, pre := BitVec.ofNat _ p, ticks := BitVec.ofNat _ n }))
        (fun t => (t.regs.pre.toNat, t.regs.ticks.toNat, t.regs.S.toNat))) =
      [some (0, 3, 9), some (1, 2, 9), some (0, 2, 9), some (1, 1, 9), some (0, 1, 9), some (0, 1, 0xA)] := by decide

/-- V-SEQ-7, `ticks = 0`. -/
theorem test_delay_zero :
    next (exec .delay (inRef { Regs.reset ref with S := 0x9#4 })) (·.regs.S) = some 0xA#4 := by decide

/-- V-SEQ-5. -/
theorem test_poll3 :
    [(false, 48), (true, 53), (true, 51)].map (fun (d, i) =>
      next (exec .poll3 (inRef { Regs.reset ref with S := 0xA#4, dir := d, i := BitVec.ofNat _ i }))
        (fun t => (t.regs.i.toNat, t.regs.S.toNat))) =
      [some (50, 1), some (51, 1), some (49, 1)] := by decide

/-- V-SEQ-8. -/
theorem test_passEnd :
    [(false, false, false), (false, false, true), (false, true, false), (false, true, true), (true, false, true),
      (true, true, false), (true, true, true)].map (fun (d, v, w) =>
        next (exec .passEnd (inRef { Regs.reset ref with S := 0xB#4, dir := d, rev := v, sw := w }))
          (fun t => (t.regs.S.toNat, t.regs.sw))) =
      [some (0, false), some (0, false), some (0xC, false), some (0xC, true), some (0, false), some (0, false),
        some (0, false)] := by decide

/-- V-SEQ-9 and L1.10. -/
theorem test_revInit :
    [(48, 8), (6, 4), (0, 32), (88, 32)].map (fun (a, n) =>
      next (exec .revInit (inRef
        { Regs.reset ref with S := 0xC#4, eStart := BitVec.ofNat _ a, eLen := BitVec.ofNat _ n }))
        (fun t => (t.regs.i.toNat, t.regs.dir, t.regs.S.toNat))) =
      [some (53, true, 1), some (7, true, 1), some (29, true, 1), some (117, true, 1)] := by decide

/-! ## Reset and recovery -/

/-- V-ENC-1. -/
theorem test_reserved :
    [Instr.reservedD, .reservedE, .reservedF].map (fun i =>
      next (exec i { inTc { Regs.reset tc with S := encode i, delay := 9, shreg := 1, spdS1 := true, rev := true } with
        inputs := [⟨false, true, true⟩] }) (fun t => decide (t = ⟨tc, tcStore, Regs.reset tc, [], 1⟩))) =
      [some true, some true, some true] := by decide

/-- V-RST-1, and V-RST-4's priority of reset: it overrides SHIFT_HI. -/
theorem test_reset :
    (inTc (Regs.reset tc)).outputs = ⟨false, false, false, 0⟩ ∧
      next (step { inTc { Regs.reset tc with S := 0x5#4, shreg := 3, idx := 1, delay := 9 } with
        inputs := [⟨true, true, true⟩] }) (fun t => decide (t = ⟨tc, tcStore, Regs.reset tc, [], 1⟩)) = some true := by
  decide

/-! ## States the witnesses use -/

/-- The checks of `Inv` on the state, with latched entry `e` and the `m`-th level, that hold whatever the direction. -/
def checkedBase (s : State) (e : Entry) (m : Nat) : Bool :=
  s.cfg.wf && Memory.wf s.cfg s.store && decide (s.regs.S.toNat ≤ 0xC) && decide (s.regs.idx.toNat < s.cfg.nPat) &&
    decide (s.regs.delay.toNat = s.cfg.delayBase + m * s.cfg.delayStep) &&
    decide (s.regs.delay.toNat < s.cfg.delayWrap) && decide (e ∈ s.cfg.catalog) &&
    decide (s.regs.eStart.toNat = e.start) && decide (s.regs.eLen.toNat = e.len) &&
    decide (s.cfg.catalog[s.regs.idx.toNat]? = some e)

/-- Those of the scan offset. -/
def checkedScan (s : State) : Bool :=
  decide (s.regs.dir = false → s.regs.S = 0x1#4 → s.regs.eStart.toNat ≤ s.regs.i.toNat ∧
    s.regs.i.toNat ≤ s.regs.rangeEnd.toNat ∧ (s.regs.i.toNat - s.regs.eStart.toNat) % 2 = 0) &&
  decide (s.regs.dir = false → 0x2 ≤ s.regs.S.toNat ∧ s.regs.S.toNat ≤ 0xA →
    s.regs.i.toNat + 2 ≤ s.regs.rangeEnd.toNat ∧ s.regs.eStart.toNat ≤ s.regs.i.toNat ∧
      (s.regs.i.toNat - s.regs.eStart.toNat) % 2 = 0) &&
  decide (s.regs.dir = true → s.regs.S = 0x1#4 → s.regs.eStart.toNat + 1 ≤ s.regs.i.toNat ∧
    s.regs.i.toNat + 3 ≤ s.regs.rangeEnd.toNat ∧ (s.regs.i.toNat - s.regs.eStart.toNat) % 2 = 1) &&
  decide (s.regs.dir = true → 0x2 ≤ s.regs.S.toNat ∧ s.regs.S.toNat ≤ 0xA →
    s.regs.eStart.toNat + 3 ≤ s.regs.i.toNat ∧ s.regs.i.toNat + 3 ≤ s.regs.rangeEnd.toNat ∧
      (s.regs.i.toNat - s.regs.eStart.toNat) % 2 = 1)

/-- Those of the serializer, the delay counter and the switch request. -/
def checkedRest (s : State) : Bool :=
  decide (s.regs.S = 0x9#4 → 1 ≤ s.regs.ticks.toNat ∧ s.regs.ticks.toNat ≤ s.regs.delay.toNat ∧
    s.regs.pre.toNat ≤ s.cfg.tickCycles - 1) &&
  decide (s.regs.S = 0x4#4 ∨ s.regs.S = 0x5#4 → s.regs.shreg = s.currentByte >>> s.regs.bitcnt.toNat) &&
  decide (¬ (s.regs.S = 0x4#4 ∨ s.regs.S = 0x5#4) → s.regs.shreg = 0) &&
  decide (s.regs.S = 0x3#4 → s.regs.k = false) && decide (s.regs.S = 0x6#4 → s.regs.k = true) &&
  decide (s.regs.S = 0x0#4 → s.regs.sw = false) &&
  decide (0x2 ≤ s.regs.S.toNat → s.regs.S.toNat ≤ 0x7 → s.regs.sw = false)

theorem inv_of_checked {s : State} (e : Entry) (m : Nat) (hb : checkedBase s e m = true) (hs : checkedScan s = true)
    (hr : checkedRest s = true) : Inv s := by
  simp only [checkedBase, checkedScan, checkedRest, Bool.and_eq_true, decide_eq_true_eq] at hb hs hr
  obtain ⟨⟨⟨⟨⟨⟨⟨⟨⟨h1, h2⟩, h3⟩, h4⟩, h5⟩, h6⟩, he⟩, ha⟩, hl⟩, hc⟩ := hb
  obtain ⟨⟨⟨fc, fs⟩, rc⟩, rs⟩ := hs
  obtain ⟨⟨⟨⟨⟨⟨dc, sh⟩, idl⟩, k3⟩, k6⟩, w0⟩, w2⟩ := hr
  have hi : IsCatLookup s.cfg s.regs.idx.toNat e := by rw [IsCatLookup, if_pos h4]; exact hc
  exact ⟨h1, h2, h3, h4, ⟨m, h5, h5 ▸ h6⟩, .inr ⟨e, he, ha, hl⟩, fc, fun d x => (fs d x).1, rc, fun d x => (rs d x).1,
    dc, sh, fun d x => (fs d x).2, fun d x => (rs d x).2, idl, k3, k6, w0, w2, fun _ _ => ⟨e, hi, ha, hl⟩⟩

/-- Past FWD_INIT on entry 0 of TC, at the second pair, with code `S`. -/
def fwdRegs (S : Code) : Regs tc := { Regs.reset tc with S := S, eLen := 6, i := 2 }

/-- A reverse pass over entry 0 of TC, at its one pair, with code `S`. -/
def revRegs (S : Code) : Regs tc := { Regs.reset tc with S := S, eLen := 6, i := 3, dir := true, rev := true }

/-- Entry 1 of TC, the one of length 4, with code `S`. -/
def shortRegs (S : Code) : Regs tc :=
  { Regs.reset tc with S := S, idx := 1, eStart := 6, eLen := 4, i := 10, rev := true }

/-- A poll state in which a second press of the pattern button is seen. -/
def pressRegs (S : Code) : Regs tc := { fwdRegs S with rev := true, patS2 := true, k := true }

theorem portInAt_replicate {c : Config} (m : List Host.Cell) (r : Regs c) {j : Nat} (h : j < 400) :
    (withStore c m r).portInAt j = released := by
  rw [State.portInAt, withStore, List.getD, List.getElem?_replicate, if_pos h]; rfl

theorem noReset_inTc (r : Regs tc) {n : Nat} (h : n ≤ 400) : NoReset (inTc r) n := fun j hj => by
  rw [inTc, portInAt_replicate _ _ (by omega)]; rfl

theorem quiet_inTc {r : Regs tc} {n : Nat} (h : n ≤ 400)
    (hr : r.spdS1 = false ∧ r.spdS2 = false ∧ r.patS1 = false ∧ r.patS2 = false) : Quiet (inTc r) n :=
  ⟨fun j hj => by rw [inTc, portInAt_replicate _ _ (by omega)]; rfl, hr⟩

theorem isResetState_tc : IsResetState (Regs.reset tc) := by unfold IsResetState; decide

theorem inv_fwdCheck : Inv (inTc (fwdRegs 0x1#4)) := inv_of_checked ⟨0, 6⟩ 0 (by decide) (by decide) (by decide)
theorem inv_fwdLoadA : Inv (inTc (fwdRegs 0x2#4)) := inv_of_checked ⟨0, 6⟩ 0 (by decide) (by decide) (by decide)
theorem inv_fwdLoadB : Inv (inTc (fwdRegs 0x3#4)) := inv_of_checked ⟨0, 6⟩ 0 (by decide) (by decide) (by decide)
theorem inv_fwdPoll3 : Inv (inTc (fwdRegs 0xA#4)) := inv_of_checked ⟨0, 6⟩ 0 (by decide) (by decide) (by decide)
theorem inv_revCheck : Inv (inTc (revRegs 0x1#4)) := inv_of_checked ⟨0, 6⟩ 0 (by decide) (by decide) (by decide)
theorem inv_revLoadA : Inv (inTc (revRegs 0x2#4)) := inv_of_checked ⟨0, 6⟩ 0 (by decide) (by decide) (by decide)
theorem inv_revPoll3 : Inv (inTc (revRegs 0xA#4)) := inv_of_checked ⟨0, 6⟩ 0 (by decide) (by decide) (by decide)
theorem inv_revInit : Inv (inTc (fwdRegs 0xC#4)) := inv_of_checked ⟨0, 6⟩ 0 (by decide) (by decide) (by decide)
theorem inv_revInitShort : Inv (inTc (shortRegs 0xC#4)) := inv_of_checked ⟨6, 4⟩ 0 (by decide) (by decide) (by decide)
theorem inv_fwdInit : Inv (inTc (fwdRegs 0x0#4)) := inv_of_checked ⟨0, 6⟩ 0 (by decide) (by decide) (by decide)

/-! ## Witnesses: states and operands that meet the hypotheses of each obligation -/

theorem witness_DecodeAndEncodeAgree :
    decodeBytes [0x0F#8, 0x01#8] = .ok (.reservedF, [0x01#8]) ∧ 16 ≤ (0x10#8 : Byte).toNat := by decide

theorem witness_StepRunsTheSelectedOperation :
    (inTc (fwdRegs 0x1#4)).cfg.wf = true ∧ (inTc (fwdRegs 0x1#4)).portIn.rst = false ∧
      decodeTableWord 8 0x0C = some .revInit := by decide

theorem witness_ResetOverridesEverything :
    let s : State := { inTc (fwdRegs 0x5#4) with inputs := [⟨true, true, false⟩] }
    s.cfg.wf = true ∧ s.portIn.rst = true := by decide

theorem witness_ResetOverridesEverything_release :
    (inTc (Regs.reset tc)).cfg.wf = true ∧ IsResetState (inTc (Regs.reset tc)).regs ∧
      (inTc (Regs.reset tc)).portIn.rst = false := ⟨by decide, isResetState_tc, by decide⟩

theorem witness_MalformedConfigurationsAreRefused :
    ¬ WellFormedConfig (withStore { tc with catalog := [] } tcStore (Regs.reset _)).cfg ∧
      WellFormedConfig (inTc (Regs.reset tc)).cfg :=
  ⟨fun h => absurd ((Laws.wf_iff _).2 h) (by decide), (Laws.wf_iff _).1 (by decide)⟩

/-- An edge without a reset that leaves code `w` in `S`: what a `ReachedOnlyFrom` asks of. -/
def Reaches (s : State) (w : Code) : Prop :=
  s.portIn.rst = false ∧ ∃ r : Regs s.cfg, step s = .next (s.later 1 r) ∧ r.S = w

theorem reaches {s : State} {w : Code} (h : s.cfg.wf = true ∧ s.portIn.rst = false ∧ (Laws.nextRegs s).S = w) :
    Reaches s w :=
  ⟨h.2.1, _, Laws.step_eq h.1, h.2.2⟩

theorem witness_LoadASendsTheFirstByte :
    Inv (inTc (fwdRegs 0x2#4)) ∧ (inTc (fwdRegs 0x2#4)).regs.S = 0x2#4 ∧ Inv (inTc (revRegs 0x2#4)) ∧
      (inTc (revRegs 0x2#4)).regs.S = 0x2#4 ∧ Reaches (inTc (fwdRegs 0x1#4)) 0x2#4 :=
  ⟨inv_fwdLoadA, rfl, inv_revLoadA, rfl, reaches (by decide)⟩

theorem witness_LoadBSendsTheSecondByte :
    Inv (inTc (fwdRegs 0x3#4)) ∧ (inTc (fwdRegs 0x3#4)).regs.S = 0x3#4 ∧
      Reaches (inTc { fwdRegs 0x5#4 with bitcnt := 7 }) 0x3#4 :=
  ⟨inv_fwdLoadB, rfl, reaches (by decide)⟩

theorem witness_ShiftLoHoldsTheBitWithTheClockLow :
    Inv (inTc { fwdRegs 0x4#4 with shreg := 0x33#8 }) ∧ (inTc { fwdRegs 0x4#4 with shreg := 0x33#8 }).regs.S = 0x4#4 :=
  ⟨inv_of_checked ⟨0, 6⟩ 0 (by decide) (by decide) (by decide), rfl⟩

theorem witness_ShiftHiClocksAndShifts :
    Inv (inTc { fwdRegs 0x5#4 with bitcnt := 7 }) ∧ (inTc { fwdRegs 0x5#4 with bitcnt := 7 }).regs.S = 0x5#4 ∧
      (inTc { fwdRegs 0x5#4 with bitcnt := 7 }).regs.bitcnt = 7 ∧ Reaches (inTc (fwdRegs 0x4#4)) 0x5#4 :=
  ⟨inv_of_checked ⟨0, 6⟩ 0 (by decide) (by decide) (by decide), rfl, rfl, reaches (by decide)⟩

theorem witness_LatchPulsesOnce :
    Inv (inTc { fwdRegs 0x6#4 with k := true }) ∧ (inTc { fwdRegs 0x6#4 with k := true }).regs.S = 0x6#4 ∧
      Reaches (inTc { fwdRegs 0x5#4 with bitcnt := 7, k := true }) 0x6#4 :=
  ⟨inv_of_checked ⟨0, 6⟩ 0 (by decide) (by decide) (by decide), rfl, reaches (by decide)⟩

theorem witness_ByteGoesOutLeastSignificantBitFirst :
    ((inTc (fwdRegs 0x2#4)).cfg.wf = true ∧ NoReset (inTc (fwdRegs 0x2#4)) 17 ∧ (inTc (fwdRegs 0x2#4)).regs.S = 0x2#4 ∧
      (0x33#8 : Byte) = (inTc (fwdRegs 0x2#4)).memRead 2) ∧
    (NoReset (inTc (revRegs 0x3#4)) 17 ∧ (inTc (revRegs 0x3#4)).regs.S = 0x3#4 ∧
      (0x44#8 : Byte) = (inTc (revRegs 0x3#4)).memRead 3) ∧
    Inv (inTc (fwdRegs 0x1#4)) ∧ ¬ Shifting (inTc (fwdRegs 0x1#4)).regs.S :=
  ⟨⟨by decide, noReset_inTc _ (by omega), rfl, by decide⟩, ⟨noReset_inTc _ (by omega), rfl, by decide⟩, inv_fwdCheck,
    by unfold Shifting; decide⟩

theorem witness_PairBecomesOneFrame :
    (inTc (fwdRegs 0x2#4)).cfg.wf = true ∧ NoReset (inTc (fwdRegs 0x2#4)) 34 ∧ (inTc (fwdRegs 0x2#4)).regs.S = 0x2#4 ∧
      Observer.start.serClk = false ∧ Observer.start.latch = false :=
  ⟨by decide, noReset_inTc _ (by omega), rfl, rfl, rfl⟩

theorem witness_FirstFrameAfterResetIsTheFirstPair :
    (inTc (Regs.reset tc)).cfg.wf = true ∧ IsResetState (inTc (Regs.reset tc)).regs ∧
      NoReset (inTc (Regs.reset tc)) 36 ∧ (inTc (Regs.reset tc)).cfg.catalog[0]? = some ⟨0, 6⟩ :=
  ⟨by decide, isResetState_tc, noReset_inTc _ (by omega), rfl⟩

theorem witness_SerialLinesKeepTheirTiming :
    ((∃ t, step (inTc { fwdRegs 0x5#4 with bitcnt := 7, k := true }) = .next t ∧ t.outputs.latch = true) ∧
      (inTc { fwdRegs 0x5#4 with bitcnt := 7, k := true }).outputs.serClk = true) ∧
    (∃ t, step (inTc (fwdRegs 0x4#4)) = .next t ∧ t.outputs.serClk = true) ∧
    (∃ t, step (inTc (fwdRegs 0x6#4)) = .next t) ∧ (inTc (fwdRegs 0x6#4)).outputs.latch = true :=
  ⟨⟨⟨_, Laws.step_eq (by decide), by decide⟩, by decide⟩, ⟨_, Laws.step_eq (by decide), by decide⟩,
    ⟨_, Laws.step_eq (by decide)⟩, by decide⟩

theorem witness_SampledAddressesLieInTheLatchedEntry :
    Inv (inTc (revRegs 0x2#4)) ∧ (inTc (revRegs 0x2#4)).regs.S = 0x2#4 ∧ Inv (inTc (fwdRegs 0x3#4)) ∧
      (inTc (fwdRegs 0x3#4)).regs.S = 0x3#4 := ⟨inv_revLoadA, rfl, inv_fwdLoadB, rfl⟩

theorem witness_StoreAndConfigurationNeverChange :
    (∃ t, step (inTc (fwdRegs 0x2#4)) = .next t) ∧
      Memory.wf (inTc (fwdRegs 0x2#4)).cfg (inTc (fwdRegs 0x2#4)).store = true :=
  ⟨⟨_, Laws.step_eq (by decide)⟩, by decide⟩

theorem witness_OnlyTheLoadsReadTheStore :
    (inTc (fwdRegs 0x2#4)).regs.S = encode .loadA ∧
      ({ inTc (fwdRegs 0x2#4) with store := [(2, 0x33#8)] } : State).storeByte (inTc (fwdRegs 0x2#4)).outputs.memAddr =
        (inTc (fwdRegs 0x2#4)).storeByte (inTc (fwdRegs 0x2#4)).outputs.memAddr ∧
    (inTc (revRegs 0x3#4)).regs.S = encode .loadB ∧
      ({ inTc (revRegs 0x3#4) with store := [(3, 0x44#8)] } : State).storeByte (inTc (revRegs 0x3#4)).outputs.memAddr =
        (inTc (revRegs 0x3#4)).storeByte (inTc (revRegs 0x3#4)).outputs.memAddr := by decide

theorem witness_BytesPastStoreSizeAreNeverRead :
    Inv (inTc (fwdRegs 0x2#4)) ∧ ∀ a < (inTc (fwdRegs 0x2#4)).cfg.storeSize,
      ({ inTc (fwdRegs 0x2#4) with store := tcStore ++ [(10, 0xFF#8)] } : State).storeByte a =
        (inTc (fwdRegs 0x2#4)).storeByte a := ⟨inv_fwdLoadA, by decide⟩

theorem witness_ButtonsReachOnlyTheFirstStages :
    (inTc (fwdRegs 0xD#4)).cfg.wf = true ∧ 0xD ≤ (inTc (fwdRegs 0xD#4)).regs.S.toNat ∧ Instr.poll1 ≠ .reservedD ∧
      Instr.poll1 ≠ .reservedE ∧ Instr.poll1 ≠ .reservedF := by decide

theorem witness_SamplesAreTwoCyclesOld :
    (inTc (fwdRegs 0x7#4)).cfg.wf = true ∧ NoReset (inTc (fwdRegs 0x7#4)) 2 ∧
      (inTc (fwdRegs 0xC#4)).regs.S.toNat ≤ 0xC := ⟨by decide, noReset_inTc _ (by omega), by decide⟩

/-- The lowest level, and the highest, after which the level wraps. -/
theorem witness_SpeedActionsCycleThroughTheLevels :
    tc.wf = true ∧ (Regs.reset tc).delay.toNat = tc.delayBase ∧ tc.delayBase + 0 * tc.delayStep < tc.delayWrap ∧
      tc.delayBase + 5 * tc.delayStep < tc.delayWrap ∧ tc.delayWrap ≤ tc.delayBase + (5 + 1) * tc.delayStep ∧
      (Regs.reset Config.hw).delay.toNat = 3 := by decide

theorem witness_PatternEventsAlternateAndAdvance :
    let r : Regs tc := { Regs.reset tc with idx := 1 }
    tc.wf = true ∧ r.rev = false ∧ r.idx.toNat < tc.nPat := by decide

theorem witness_OnePressAtAnEdge :
    (∃ t, step (inTc { pressRegs 0x7#4 with spdS2 := true }) = .next t ∧ t.regs.spdLatch = true) ∧
    (∃ t, step (inTc (pressRegs 0x7#4)) = .next t ∧ t.regs.patLatch = true) ∧
      (inTc (pressRegs 0x7#4)).regs.spdLatch = false ∧ (inTc (pressRegs 0x7#4)).regs.patLatch = false :=
  ⟨⟨_, Laws.step_eq (by decide), by decide⟩, ⟨_, Laws.step_eq (by decide), by decide⟩, rfl, rfl⟩

theorem witness_HeldButtonActsOnce :
    (Regs.reset tc).spdLatch = false ∧ (Regs.reset tc).patLatch = false ∧
      ¬ (false = true ∧ (Regs.reset tc).spdLatch = false) := by decide

/-- An index of the catalog, and one past it. -/
theorem witness_FwdInitLatchesTheActiveEntry :
    IsCatLookup (inTc (shortRegs 0x0#4)).cfg (inTc (shortRegs 0x0#4)).regs.idx.toNat ⟨6, 4⟩ ∧
      IsCatLookup tc 7 ⟨0, 6⟩ ∧ Inv (inTc (fwdRegs 0x0#4)) ∧ (inTc (fwdRegs 0x0#4)).regs.S = 0x0#4 ∧
      (inTc (fwdRegs 0x0#4)).cfg.wf = true :=
  ⟨by unfold IsCatLookup; decide, by unfold IsCatLookup; decide, inv_fwdInit, rfl, by decide⟩

theorem witness_CheckTestsTheRangeAndTheSwitch :
    (inTc (fwdRegs 0x1#4)).regs.dir = false ∧
    (Inv (inTc (revRegs 0x1#4)) ∧ (inTc (revRegs 0x1#4)).regs.S = 0x1#4 ∧ (inTc (revRegs 0x1#4)).regs.dir = true) ∧
    (Inv (inTc (fwdRegs 0x0#4)) ∧ (inTc (fwdRegs 0x0#4)).regs.S = 0x0#4 ∧ NoReset (inTc (fwdRegs 0x0#4)) 2) ∧
    (Inv (inTc (shortRegs 0xC#4)) ∧ (inTc (shortRegs 0xC#4)).regs.S = 0xC#4 ∧
      (inTc (shortRegs 0xC#4)).regs.eLen.toNat = 4 ∧ NoReset (inTc (shortRegs 0xC#4)) 2) :=
  ⟨rfl, ⟨inv_revCheck, rfl, rfl⟩, ⟨inv_fwdInit, rfl, noReset_inTc _ (by omega)⟩,
    ⟨inv_revInitShort, rfl, by decide, noReset_inTc _ (by omega)⟩⟩

theorem witness_DelayCountsTicksOfTickCycles :
    let s := inTc { fwdRegs 0x9#4 with ticks := 3 }
    s.cfg.wf = true ∧ s.regs.S = 0x9#4 ∧ 1 ≤ s.regs.ticks.toNat ∧ s.regs.pre.toNat = s.cfg.tickCycles - 1 ∧
      NoReset s (s.regs.ticks.toNat * s.cfg.tickCycles) :=
  ⟨by decide, rfl, by decide, by decide, noReset_inTc _ (by decide)⟩

theorem witness_Poll3PollsAndAdvancesTheOffset :
    (Inv (inTc (fwdRegs 0xA#4)) ∧ (inTc (fwdRegs 0xA#4)).regs.S = 0xA#4 ∧ (inTc (fwdRegs 0xA#4)).regs.dir = false) ∧
      Inv (inTc (revRegs 0xA#4)) ∧ (inTc (revRegs 0xA#4)).regs.S = 0xA#4 ∧ (inTc (revRegs 0xA#4)).regs.dir = true :=
  ⟨⟨inv_fwdPoll3, rfl, rfl⟩, inv_revPoll3, rfl, rfl⟩

theorem witness_PassEndReversesOrRestarts :
    let s := inTc { fwdRegs 0xB#4 with rev := true, sw := true }
    s.cfg.wf = true ∧ s.regs.S = 0xB#4 ∧ s.regs.dir = false ∧ s.regs.rev = true ∧ s.regs.sw = true ∧ NoReset s 4 :=
  ⟨by decide, rfl, rfl, rfl, rfl, noReset_inTc _ (by omega)⟩

theorem witness_RevInitStartsBeforeTheLastPair :
    Inv (inTc (fwdRegs 0xC#4)) ∧ (inTc (fwdRegs 0xC#4)).regs.S = 0xC#4 := ⟨inv_revInit, rfl⟩

theorem witness_ReservedCodesRecover :
    (inTc (fwdRegs 0xE#4)).cfg.wf = true ∧ (inTc (fwdRegs 0xE#4)).regs.S = 0xE#4 ∧
      ∃ t, step (inTc (fwdRegs 0xE#4)) = .next t := ⟨by decide, rfl, _, Laws.step_eq (by decide)⟩

theorem witness_NextCodeIsAListedSuccessor : (inTc (fwdRegs 0x5#4)).cfg.wf = true := by decide

theorem witness_RegistersHaveOnlyTheirNamedWriters :
    Instr.passEnd ≠ .reservedD ∧ Instr.passEnd ≠ .reservedE ∧ Instr.passEnd ≠ .reservedF := by decide

theorem witness_IndexTakesEffectAtFwdInitOnly : Instr.poll3 ≠ .fwdInit := by decide

theorem witness_EveryStepKeepsTheInvariants :
    Inv (inTc (revRegs 0xA#4)) ∧ ∃ t, step (inTc (revRegs 0xA#4)) = .next t :=
  ⟨inv_revPoll3, _, Laws.step_eq (by decide)⟩

theorem witness_ReachableStatesMeetTheInvariants :
    (inTc (Regs.reset tc)).cfg.wf = true ∧ Memory.wf (inTc (Regs.reset tc)).cfg (inTc (Regs.reset tc)).store = true ∧
      IsResetState (inTc (Regs.reset tc)).regs ∧ ∃ t, cycles 100 (inTc (Regs.reset tc)) = .next t :=
  ⟨by decide, by decide, isResetState_tc, _, Laws.cycles_eq (by decide) 100⟩

/-- The second forward pair of entry 0, which is the last but one, and its one reverse pair. -/
theorem witness_OneStepShowsOnePair :
    (Inv (inTc (fwdRegs 0x1#4)) ∧ (inTc (fwdRegs 0x1#4)).regs.S = 0x1#4 ∧ (inTc (fwdRegs 0x1#4)).regs.sw = false ∧
      (inTc (fwdRegs 0x1#4)).regs.i.toNat < (inTc (fwdRegs 0x1#4)).regs.rangeEnd.toNat ∧
      NoReset (inTc (fwdRegs 0x1#4)) (39 + (inTc (fwdRegs 0x1#4)).cfg.delayWrap * (inTc (fwdRegs 0x1#4)).cfg.tickCycles)) ∧
    (Inv (inTc (revRegs 0x1#4)) ∧ (inTc (revRegs 0x1#4)).regs.S = 0x1#4 ∧ (inTc (revRegs 0x1#4)).regs.sw = false ∧
      (inTc (revRegs 0x1#4)).regs.eStart.toNat + 2 ≤ (inTc (revRegs 0x1#4)).regs.i.toNat ∧
      NoReset (inTc (revRegs 0x1#4))
        (39 + (inTc (revRegs 0x1#4)).cfg.delayWrap * (inTc (revRegs 0x1#4)).cfg.tickCycles)) :=
  ⟨⟨inv_fwdCheck, rfl, rfl, by decide, noReset_inTc _ (by decide)⟩,
    ⟨inv_revCheck, rfl, rfl, by decide, noReset_inTc _ (by decide)⟩⟩

theorem witness_SwitchTakesEffectAtThePairBoundary (S : Code) (h : S = 0x7#4 ∨ S = 0x8#4 ∨ S = 0xA#4) :
    Inv (inTc (pressRegs S)) ∧ RequestsSwitch (inTc (pressRegs S)).regs ∧ (inTc (pressRegs S)).regs.S = S ∧
      NoReset (inTc (pressRegs S)) (4 + (inTc (pressRegs S)).cfg.delayWrap * (inTc (pressRegs S)).cfg.tickCycles) := by
  refine ⟨?_, ?_, rfl, noReset_inTc _ (show 4 + 39 * 1 ≤ 400 by omega)⟩
  · rcases h with rfl | rfl | rfl <;> exact inv_of_checked ⟨0, 6⟩ 0 (by decide) (by decide) (by decide)
  · exact ⟨by rintro ⟨h, -⟩; exact absurd h Bool.false_ne_true, rfl, rfl, rfl⟩

theorem witness_ForwardPassShowsEveryPairOnce :
    Inv (inTc (fwdRegs 0x0#4)) ∧ (inTc (fwdRegs 0x0#4)).regs.S = 0x0#4 ∧
      IsCatLookup (inTc (fwdRegs 0x0#4)).cfg (inTc (fwdRegs 0x0#4)).regs.idx.toNat ⟨0, 6⟩ ∧
      Quiet (inTc (fwdRegs 0x0#4))
        (6 / 2 * (39 + (inTc (fwdRegs 0x0#4)).regs.delay.toNat * (inTc (fwdRegs 0x0#4)).cfg.tickCycles) + 3) :=
  ⟨inv_fwdInit, rfl, by unfold IsCatLookup; decide, quiet_inTc (by decide) ⟨rfl, rfl, rfl, rfl⟩⟩

/-- A reverse pass of one pair, and the empty one over an entry of length 4. -/
theorem witness_ReversePassShowsTheInnerPairsBackward (r : Regs tc) (h : r = fwdRegs 0xC#4 ∨ r = shortRegs 0xC#4) :
    Inv (inTc r) ∧ (inTc r).regs.S = 0xC#4 ∧ (inTc r).regs.sw = false ∧
      Quiet (inTc r) (((inTc r).regs.eLen.toNat / 2 - 2) *
        (39 + (inTc r).regs.delay.toNat * (inTc r).cfg.tickCycles) + 3) := by
  rcases h with rfl | rfl
  · exact ⟨inv_revInit, rfl, rfl, quiet_inTc (by decide) ⟨rfl, rfl, rfl, rfl⟩⟩
  · exact ⟨inv_revInitShort, rfl, rfl, quiet_inTc (by decide) ⟨rfl, rfl, rfl, rfl⟩⟩

theorem witness_CyclesAfterResetAreAsTabled :
    (inTc (Regs.reset tc)).cfg.wf = true ∧ Memory.wf (inTc (Regs.reset tc)).cfg (inTc (Regs.reset tc)).store = true ∧
      IsResetState (inTc (Regs.reset tc)).regs ∧
      Quiet (inTc (Regs.reset tc))
        (41 + (inTc (Regs.reset tc)).cfg.delayBase * (inTc (Regs.reset tc)).cfg.tickCycles) :=
  ⟨by decide, by decide, isResetState_tc, quiet_inTc (by decide) ⟨rfl, rfl, rfl, rfl⟩⟩

theorem witness_ForwardPassShowsItsPairsWhateverTheButtons :
    Inv (inTc (fwdRegs 0x0#4)) ∧ (inTc (fwdRegs 0x0#4)).regs.S = 0x0#4 ∧
      IsCatLookup (inTc (fwdRegs 0x0#4)).cfg (inTc (fwdRegs 0x0#4)).regs.idx.toNat ⟨0, 6⟩ ∧
      NoReset (inTc (fwdRegs 0x0#4))
        (6 / 2 * (39 + (inTc (fwdRegs 0x0#4)).cfg.delayWrap * (inTc (fwdRegs 0x0#4)).cfg.tickCycles) + 3) :=
  ⟨inv_fwdInit, rfl, by unfold IsCatLookup; decide, noReset_inTc _ (by decide)⟩

/-- A forward pass in reversing mode, the pattern button pressed throughout. -/
def pressedPass : State :=
  { inTc { fwdRegs 0x0#4 with rev := true } with inputs := List.replicate 400 ⟨false, false, true⟩ }

/-- Its POLL1, cycle 37, requests a switch: the clauses about such a poll are not empty. -/
theorem witness_ForwardPassShowsItsPairsWhateverTheButtons_request : SwitchAt pressedPass 37 := by
  refine ⟨_, Laws.cycles_eq (by decide) 37, ?_⟩
  unfold RequestsSwitch
  decide +kernel

/-- A reverse pass of one pair, and the empty one over an entry of length 4. -/
theorem witness_ReversePassShowsItsPairsWhateverTheButtons (r : Regs tc)
    (h : r = fwdRegs 0xC#4 ∨ r = shortRegs 0xC#4) :
    Inv (inTc r) ∧ (inTc r).regs.S = 0xC#4 ∧ (inTc r).regs.sw = false ∧
      NoReset (inTc r) (((inTc r).regs.eLen.toNat / 2 - 2) *
        (39 + (inTc r).cfg.delayWrap * (inTc r).cfg.tickCycles) + 3) := by
  rcases h with rfl | rfl
  · exact ⟨inv_revInit, rfl, rfl, noReset_inTc _ (by decide)⟩
  · exact ⟨inv_revInitShort, rfl, rfl, noReset_inTc _ (by decide)⟩

/-- With the button pressed throughout, POLL1 of a reverse pass, cycle 37, requests a switch too. -/
theorem witness_ReversePassShowsItsPairsWhateverTheButtons_request :
    SwitchAt { pressedPass with regs := { pressedPass.regs with S := 0xC#4 } } 37 := by
  refine ⟨_, Laws.cycles_eq (by decide) 37, ?_⟩
  unfold RequestsSwitch
  decide +kernel

end Sys2Proof.Tests
end

section
/-! PROOFS. The checks of R8, the addresses that are sampled, the bytes that are never read, the delay levels, and the
invariants of R45 at every reachable state. -/

namespace Sys2Proof.Proofs

open Sys2Proof.Machine Sys2Proof.Laws

variable {c : Config} {s : State}

/-! ## The checks of R8 -/

/-- A step is refused exactly where R8 refuses the configuration. -/
theorem step_of_malformed (h : ¬ WellFormedConfig s.cfg) : step s = .refused .malformedConfiguration :=
  if_neg fun hc => h ((wf_iff s.cfg).1 hc)

/-- The reference configuration passes every check, whatever its OPEN parameters: only `TICK_CYCLES >= 1` is read. -/
theorem hw_wf : Config.hw.wf = true := by decide

/-- Settles O6: the Boolean checks are R8's, and a step asks nothing else before it answers. -/
theorem malformedConfigurationsAreRefused : Obligations.MalformedConfigurationsAreRefused :=
  ⟨fun _ h => step_of_malformed h, fun s h => ⟨nextRegs s, step_eq ((wf_iff s.cfg).2 h)⟩, (wf_iff _).1 hw_wf⟩

/-! ## The delay levels -/

/-- A speed action from below `DELAY_WRAP`: neither the sum nor the register wraps (R8, R124). -/
theorem speedAction_delay_toNat (hc : WellFormedConfig c) {r : Regs c} (h : r.delay.toNat < c.delayWrap) :
    r.speedAction.delay.toNat =
      if c.delayWrap ≤ r.delay.toNat + c.delayStep then c.delayBase else r.delay.toNat + c.delayStep := by
  obtain ⟨_, hbase, _, hsum⟩ := hc.delay
  have hreg := hc.delayReg
  have hacted : r.speedAction.delay.toNat = levelAfterSpeedAction r := speedAction_acted r
  rw [hacted, levelAfterSpeedAction, Nat.mod_eq_of_lt (a := r.delay.toNat + c.delayStep) (by omega)]
  split <;> exact Nat.mod_eq_of_lt (by omega)

/-- A speed action leads from a level to a level (R9). -/
theorem speedAction_isLevel (hc : WellFormedConfig c) {r : Regs c} (h : isLevel c r.delay.toNat) :
    isLevel c r.speedAction.delay.toNat := by
  obtain ⟨m, hm, hlt⟩ := h
  rw [speedAction_delay_toNat hc hlt]
  split
  next => exact ⟨0, by simp, hc.delay.2.1⟩
  next hle => exact ⟨m + 1, by rw [hm, Nat.succ_mul, Nat.add_assoc], by omega⟩

/-- From the base, `k` speed actions reach the `k`-th level (R128). -/
theorem speedAction_iterate_delay (hc : WellFormedConfig c) {r : Regs c} (hr : r.delay.toNat = c.delayBase) (k : Nat)
    (hk : c.delayBase + k * c.delayStep < c.delayWrap) :
    ((Regs.speedAction)^[k] r).delay.toNat = c.delayBase + k * c.delayStep := by
  induction k with
  | zero => simpa using hr
  | succ k ih =>
    rw [Nat.succ_mul] at hk ⊢
    have hlast := ih (by omega)
    rw [Function.iterate_succ_apply', speedAction_delay_toNat hc (by omega), hlast, if_neg (by omega), Nat.add_assoc]

/-- The action after the last level below `DELAY_WRAP` returns to the base (R128). -/
theorem speedAction_iterate_wraps (hc : WellFormedConfig c) {r : Regs c} (hr : r.delay.toNat = c.delayBase) (k : Nat)
    (hk : c.delayBase + k * c.delayStep < c.delayWrap) (hw : c.delayWrap ≤ c.delayBase + (k + 1) * c.delayStep) :
    ((Regs.speedAction)^[k + 1] r).delay.toNat = c.delayBase := by
  have hlast := speedAction_iterate_delay hc hr k hk
  rw [Nat.succ_mul] at hw
  rw [Function.iterate_succ_apply', speedAction_delay_toNat hc (by omega), hlast, if_pos (by omega)]

/-- Settles O24: the levels in order by induction on the number of actions; the reference configuration has the six
levels 3, 9, ..., 33. -/
theorem speedActionsCycleThroughTheLevels : Obligations.SpeedActionsCycleThroughTheLevels := by
  refine ⟨fun c r k hc hr hk => ?_, fun r hr => ?_⟩
  · have hw := (wf_iff c).1 hc
    exact ⟨speedAction_iterate_delay hw hr k hk, speedAction_iterate_wraps hw hr k hk⟩
  · exact speedAction_iterate_wraps ((wf_iff _).1 hw_wf) hr 5 (by decide) (by decide)

/-! ## The sampled addresses -/

/-- Both bytes of the pair of a running step lie in the latched entry (R56). -/
theorem pair_mem_latchedEntry (h : Inv s) (hS : InStep s.regs.S) :
    (s.regs.eStart.toNat ≤ s.regs.aFirst.toNat ∧
      s.regs.aFirst.toNat < s.regs.eStart.toNat + s.regs.eLen.toNat) ∧
    s.regs.eStart.toNat ≤ s.regs.aSecond.toNat ∧
      s.regs.aSecond.toNat < s.regs.eStart.toNat + s.regs.eLen.toNat := by
  have hc := inv_config h
  have hS0 : s.regs.S ≠ 0x0#4 := by rintro h0; simp [InStep, h0] at hS
  obtain ⟨_, _, _, hfit⟩ := inv_latched h hS0
  have hE := inv_rangeEnd h hS0
  cases hd : s.regs.dir with
  | false =>
    have hlast := h.fwdStep hd hS
    have hfirst := (h.fwdParity hd hS).1
    obtain ⟨ha, hb⟩ := pair_forward hc hd (by omega)
    omega
  | true =>
    have hfirst := h.revStep hd hS
    have hlast := (h.revParity hd hS).1
    obtain ⟨ha, hb⟩ := pair_reverse hc hd (by omega)
    omega

/-- The pair of a running step lies in the store (R56). -/
theorem pair_lt_storeSize (h : Inv s) (hS : InStep s.regs.S) :
    s.regs.aFirst.toNat < s.cfg.storeSize ∧ s.regs.aSecond.toNat < s.cfg.storeSize := by
  obtain ⟨⟨_, hfirst⟩, _, hsecond⟩ := pair_mem_latchedEntry h hS
  obtain ⟨_, _, hstore, _⟩ := inv_latched h (by rintro h0; simp [InStep, h0] at hS)
  omega

/-- Settles O18: the pair lies in the latched entry, and an address in the store survives the cut to the port's width. -/
theorem sampledAddressesLieInTheLatchedEntry : Obligations.SampledAddressesLieInTheLatchedEntry := by
  intro s h hS
  have hstep : InStep s.regs.S := by rcases hS with hS | hS <;> simp [InStep, hS]
  obtain ⟨hfirst, hsecond⟩ := pair_mem_latchedEntry h hstep
  obtain ⟨hfirstStore, hsecondStore⟩ := pair_lt_storeSize h hstep
  rcases hS with hS | hS
  · have hport : s.outputs.memAddr = s.regs.aFirst.toNat := by
      simp [State.outputs, Regs.memAddr, hS, encode, address_toNat (inv_config h) hfirstStore]
    rw [hport]; exact ⟨hfirst.1, hfirst.2, hfirstStore⟩
  · have hport : s.outputs.memAddr = s.regs.aSecond.toNat := by
      simp [State.outputs, Regs.memAddr, hS, encode, address_toNat (inv_config h) hsecondStore]
    rw [hport]; exact ⟨hsecond.1, hsecond.2, hsecondStore⟩

/-! ## What a step reads of the store -/

/-- An operation depends on the store through the byte it loads alone (R52, R53). -/
theorem execRegs_withStore (i : Instr) (s : State) (m : List Host.Cell)
    (hA : i = .loadA → ({ s with store := m } : State).memRead s.regs.aFirst = s.memRead s.regs.aFirst)
    (hB : i = .loadB → ({ s with store := m } : State).memRead s.regs.aSecond = s.memRead s.regs.aSecond) :
    execRegs i { s with store := m } = execRegs i s := by
  cases i with
  | loadA => exact congrArg (fun b => (s.regs.loadShifter b false).synchronise s.portIn) (hA rfl)
  | loadB => exact congrArg (fun b => (s.regs.loadShifter b true).synchronise s.portIn) (hB rfl)
  | _ => rfl

/-- Every code is read back from the operation it selects (R71). -/
theorem encode_decodeCode (w : Code) : encode (decodeCode w) = w := by
  revert w; decide

/-- Stores that agree below `STORE_SIZE` read alike there. -/
theorem memRead_withStore (hc : WellFormedConfig s.cfg) {m : List Host.Cell}
    (hm : ∀ a < s.cfg.storeSize, ({ s with store := m } : State).storeByte a = s.storeByte a)
    {a : BitVec s.cfg.cw} (ha : a.toNat < s.cfg.storeSize) :
    ({ s with store := m } : State).memRead a = s.memRead a := by
  rw [memRead_eq hc ha, ← hm _ ha]
  exact memRead_eq (s := { s with store := m }) hc ha

/-- Settles O21: without a reset only the loads read the store, at addresses below `STORE_SIZE`. -/
theorem bytesPastStoreSizeAreNeverRead : Obligations.BytesPastStoreSizeAreNeverRead := by
  intro s m h hm
  have hc := inv_config h
  have hreads (i : Instr) (hi : i = .loadA ∨ i = .loadB) (hS : decodeCode s.regs.S = i) :
      s.regs.aFirst.toNat < s.cfg.storeSize ∧ s.regs.aSecond.toNat < s.cfg.storeSize := by
    refine pair_lt_storeSize h ?_
    rw [← encode_decodeCode s.regs.S, hS]
    rcases hi with rfl | rfl <;> simp [InStep, encode]
  have hexec : execRegs (decodeCode s.regs.S) { s with store := m } = execRegs (decodeCode s.regs.S) s :=
    execRegs_withStore _ s m (fun hi => memRead_withStore hc hm (hreads _ (.inl rfl) hi).1)
      (fun hi => memRead_withStore hc hm (hreads _ (.inr rfl) hi).2)
  have hnext : nextRegs { s with store := m } = nextRegs s :=
    congrArg (fun r => if s.portIn.rst then Regs.reset s.cfg else r) hexec
  exact ⟨nextRegs s, step_eq h.config, (step_eq (s := { s with store := m }) h.config).trans (by rw [hnext])⟩

end Sys2Proof.Proofs
end

section
/-! PROOFS. Every operation keeps the invariants of R45: which operation leads to a code, what it leaves alone, and the
groups of `Inv` one after the other. -/

namespace Sys2Proof.Proofs

open Sys2Proof.Machine Sys2Proof.Laws

variable {c : Config} {s : State} {i : Instr}

/-! ## Which operation leads to a code -/

/-- The code an operation leaves is one of its successors (R42). -/
theorem execRegs_S_mem (hi : s.regs.S = encode i) : (execRegs i s).S ∈ successors i := by
  cases i with
  | check => cases hgo : s.regs.go <;> simp [execRegs, State.checkRule, successors, encode, hgo]
  | shiftHi =>
    cases hl : s.regs.lastBit <;> cases hk : s.regs.k <;>
      simp [execRegs, State.shiftHiRule, Regs.afterBit, successors, encode, hl, hk]
  | delay =>
    cases hp : s.regs.tickRuns <;> cases ht : s.regs.lastTick <;>
      simp [execRegs, State.delayRule, successors, hi, encode, hp, ht]
  | passEnd => cases hr : s.regs.reverseFollows <;> simp [execRegs, State.passEndRule, successors, encode, hr]
  | _ => exact List.mem_singleton.2 rfl

/-- No operation leaves a reserved code (INV1). -/
theorem successors_legal (i : Instr) : ∀ w ∈ successors i, w.toNat ≤ 0xC := by
  cases i <;> decide

/-- What leads to FWD_INIT. -/
theorem eq_of_fwdInit_mem_successors (h : 0x0#4 ∈ successors i) (hl : (encode i).toNat ≤ 0xC) : i = .passEnd := by
  revert h hl; cases i <;> decide

/-- What leads to CHECK. -/
theorem eq_of_check_mem_successors (h : 0x1#4 ∈ successors i) : i = .fwdInit ∨ i = .poll3 ∨ i = .revInit := by
  revert h; cases i <;> decide

/-- What leads to LOAD_B. -/
theorem eq_of_loadB_mem_successors (h : 0x3#4 ∈ successors i) : i = .shiftHi := by
  revert h; cases i <;> decide

/-- What leads to LATCH. -/
theorem eq_of_latch_mem_successors (h : 0x6#4 ∈ successors i) : i = .shiftHi := by
  revert h; cases i <;> decide

/-- What leads to DELAY. -/
theorem eq_of_delay_mem_successors (h : 0x9#4 ∈ successors i) : i = .poll2 ∨ i = .delay := by
  revert h; cases i <;> decide

/-- What leads to SHIFT_LO or SHIFT_HI. -/
theorem eq_of_shifting_mem_successors {w : Code} (h : w ∈ successors i) (hw : Shifting w) :
    i = .loadA ∨ i = .loadB ∨ i = .shiftLo ∨ i = .shiftHi := by
  rcases hw with rfl | rfl <;> (revert h; cases i <;> decide)

/-- A running step comes from CHECK or from an operation of the step other than its last. -/
theorem eq_of_inStep_mem_successors {w : Code} (h : w ∈ successors i) (hw : InStep w) :
    i = .check ∨ InStep (encode i) ∧ i ≠ .poll3 := by
  unfold InStep at *; revert w; cases i <;> decide

/-- The codes from LOAD_A to POLL1 come from CHECK or from an operation of the sending of a pair. -/
theorem eq_of_sending_mem_successors {w : Code} (h : w ∈ successors i) (h2 : 0x2 ≤ w.toNat) (h7 : w.toNat ≤ 0x7) :
    i = .check ∨ 0x2 ≤ (encode i).toNat ∧ (encode i).toNat ≤ 0x6 := by
  revert w; cases i <;> decide

/-- CHECK leaves for another code than PASS_END's on `go` only (R142). -/
theorem go_of_execRegs_check (h : (execRegs .check s).S ≠ 0xB#4) : s.regs.go = true := by
  cases hgo : s.regs.go with
  | true => rfl
  | false => simp [execRegs, State.checkRule, encode, hgo] at h

/-! ## What a poll does to the playback state -/

/-- What a poll does to the pattern: nothing, or an advance that requests a switch (R125). -/
theorem poll_pattern (r : Regs c) :
    r.poll.idx = r.idx ∧ r.poll.sw = r.sw ∨ r.poll.idx.toNat = idxAfterAdvance r ∧ r.poll.sw = true := by
  have hp := poll_polled r
  unfold Polled PatternActed at hp
  split at hp
  next =>
    obtain ⟨_, _, _, hidx, _, hsw⟩ := hp
    exact .inl ⟨hidx, hsw⟩
  next =>
    obtain ⟨_, _, hp⟩ := hp
    split at hp
    next =>
      obtain ⟨_, hp⟩ := hp
      split at hp <;> obtain ⟨_, hidx, hsw⟩ := hp
      · exact .inr ⟨hidx, hsw⟩
      · exact .inl ⟨hidx, hsw⟩
    next =>
      obtain ⟨_, hidx, _, hsw⟩ := hp
      exact .inl ⟨hidx, hsw⟩

/-- A poll that leaves `sw` at 0 requested no switch and left the pattern alone (R125). -/
theorem poll_noSwitch {r : Regs c} (h : r.poll.sw = false) : r.sw = false ∧ r.poll.idx = r.idx := by
  rcases poll_pattern r with ⟨hidx, hsw⟩ | ⟨_, hsw⟩
  · exact ⟨hsw.symm.trans h, hidx⟩
  · simp [hsw] at h

/-- An advance stays inside the catalog (R125). -/
theorem idxAfterAdvance_lt (hc : WellFormedConfig c) (r : Regs c) : idxAfterAdvance r < c.nPat := by
  unfold idxAfterAdvance
  split
  next => exact hc.nPat.1
  next hlt => exact (Nat.mod_le _ _).trans_lt (by omega)

/-- A poll keeps the pattern index inside the catalog (INV2). -/
theorem poll_idx_lt (hc : WellFormedConfig c) {r : Regs c} (h : r.idx.toNat < c.nPat) : r.poll.idx.toNat < c.nPat := by
  rcases poll_pattern r with ⟨hidx, _⟩ | ⟨hidx, _⟩ <;> rw [hidx]
  · exact h
  · exact idxAfterAdvance_lt hc r

/-- A poll leads from a delay level to a delay level (INV3). -/
theorem poll_isLevel (hc : WellFormedConfig c) {r : Regs c} (h : isLevel c r.delay.toNat) :
    isLevel c r.poll.delay.toNat := by
  have hp := poll_polled r
  unfold Polled at hp
  split at hp
  next =>
    obtain ⟨_, hacted, _⟩ := hp
    rw [show r.poll.delay.toNat = r.speedAction.delay.toNat from hacted.trans (speedAction_acted r).symm]
    exact speedAction_isLevel hc h
  next =>
    obtain ⟨_, hsame, _⟩ := hp
    rwa [hsame]

/-! ## What an operation leaves alone -/

/-- DELAY writes its successor and the delay counter alone (R145). -/
theorem execRegs_delay_frame (s : State) :
    ∃ w t p, execRegs .delay s = ({ s.regs with S := w, ticks := t, pre := p } : Regs s.cfg).synchronise s.portIn := by
  cases hp : s.regs.tickRuns <;> cases ht : s.regs.lastTick <;> simp only [execRegs, State.delayRule, hp, ht] <;>
    exact ⟨_, _, _, rfl⟩

/-- PASS_END writes its successor and the switch request alone (R147). -/
theorem execRegs_passEnd_frame (s : State) :
    ∃ w b, execRegs .passEnd s = ({ s.regs with S := w, sw := b } : Regs s.cfg).synchronise s.portIn := by
  cases hr : s.regs.reverseFollows <;> simp only [execRegs, State.passEndRule, hr] <;> exact ⟨_, _, rfl⟩

/-- Only FWD_INIT latches an entry. -/
theorem execRegs_entry (hl : (encode i).toNat ≤ 0xC) (hf : i ≠ .fwdInit) :
    (execRegs i s).eStart = s.regs.eStart ∧ (execRegs i s).eLen = s.regs.eLen := by
  cases i with
  | fwdInit => exact absurd rfl hf
  | poll1 | poll2 | poll3 => simp [execRegs, State.poll1Rule, State.poll2Rule, State.poll3Rule]
  | delay =>
    obtain ⟨_, _, _, hr⟩ := execRegs_delay_frame s
    rw [hr]
    exact ⟨rfl, rfl⟩
  | passEnd =>
    obtain ⟨_, _, hr⟩ := execRegs_passEnd_frame s
    rw [hr]
    exact ⟨rfl, rfl⟩
  | reservedD | reservedE | reservedF => simp [encode] at hl
  | _ => exact ⟨rfl, rfl⟩

/-- CHECK and the operations of a step before its last leave direction, offset and latched entry alone. -/
theorem execRegs_sameScan (h : i = .check ∨ InStep (encode i) ∧ i ≠ .poll3) : SameScan s.regs (execRegs i s) := by
  cases i with
  | check | loadA | loadB | shiftLo | shiftHi | latch => exact ⟨rfl, rfl, rfl, rfl⟩
  | poll1 | poll2 => simp [SameScan, execRegs, State.poll1Rule, State.poll2Rule]
  | delay =>
    obtain ⟨_, _, _, hr⟩ := execRegs_delay_frame s
    rw [hr]
    exact ⟨rfl, rfl, rfl, rfl⟩
  | fwdInit | poll3 | passEnd | revInit | reservedD | reservedE | reservedF => simp [InStep, encode] at h

/-- An operation keeps the pattern index and the delay level, or takes them from a poll; reserved codes apart. -/
theorem execRegs_playback (hl : (encode i).toNat ≤ 0xC) :
    (execRegs i s).idx = s.regs.idx ∧ (execRegs i s).delay = s.regs.delay ∨
      (execRegs i s).idx = s.regs.poll.idx ∧ (execRegs i s).delay = s.regs.poll.delay := by
  cases i with
  | poll1 | poll2 | poll3 => exact .inr ⟨rfl, rfl⟩
  | delay =>
    obtain ⟨_, _, _, hr⟩ := execRegs_delay_frame s
    rw [hr]
    exact .inl ⟨rfl, rfl⟩
  | passEnd =>
    obtain ⟨_, _, hr⟩ := execRegs_passEnd_frame s
    rw [hr]
    exact .inl ⟨rfl, rfl⟩
  | reservedD | reservedE | reservedF => simp [encode] at hl
  | _ => exact .inl ⟨rfl, rfl⟩

/-- An operation that leaves `sw` at 0, except the restart at FWD_INIT, found it at 0 and left the pattern alone. -/
theorem execRegs_noSwitch (hl : (encode i).toNat ≤ 0xC) (hS : (execRegs i s).S ≠ 0x0#4)
    (hsw : (execRegs i s).sw = false) : s.regs.sw = false ∧ (execRegs i s).idx = s.regs.idx := by
  cases i with
  | poll1 | poll2 | poll3 => exact poll_noSwitch hsw
  | delay =>
    obtain ⟨_, _, _, hr⟩ := execRegs_delay_frame s
    rw [hr] at hsw ⊢
    exact ⟨hsw, rfl⟩
  | passEnd =>
    cases hr : s.regs.reverseFollows with
    | true =>
      simp only [execRegs, State.passEndRule, hr, if_true] at hsw ⊢
      exact ⟨hsw, rfl⟩
    | false => simp [execRegs, State.passEndRule, encode, hr] at hS
  | reservedD | reservedE | reservedF => simp [encode] at hl
  | _ => exact ⟨hsw, rfl⟩

/-- Outside the serializer the shift register is left alone. -/
theorem execRegs_shreg (hl : (encode i).toNat ≤ 0xC) (h : i ≠ .loadA ∧ i ≠ .loadB ∧ i ≠ .shiftHi) :
    (execRegs i s).shreg = s.regs.shreg := by
  cases i with
  | loadA | loadB | shiftHi => simp at h
  | poll1 | poll2 | poll3 => simp [execRegs, State.poll1Rule, State.poll2Rule, State.poll3Rule]
  | delay =>
    obtain ⟨_, _, _, hr⟩ := execRegs_delay_frame s
    rw [hr]
    rfl
  | passEnd =>
    obtain ⟨_, _, hr⟩ := execRegs_passEnd_frame s
    rw [hr]
    rfl
  | reservedD | reservedE | reservedF => simp [encode] at hl
  | _ => rfl

/-- The sending of a pair leaves the switch request alone. -/
theorem execRegs_sw_sending (h : i = .check ∨ 0x2 ≤ (encode i).toNat ∧ (encode i).toNat ≤ 0x6) :
    (execRegs i s).sw = s.regs.sw := by
  cases i with
  | check | loadA | loadB | shiftLo | shiftHi | latch => rfl
  | _ => simp [encode] at h

/-! ## The scan offset -/

/-- INV5 and INV7, what CHECK finds. -/
def OffsetInRange (r : Regs c) : Prop :=
  (r.dir = false → r.eStart.toNat ≤ r.i.toNat ∧ r.i.toNat ≤ r.rangeEnd.toNat ∧
    (r.i.toNat - r.eStart.toNat) % 2 = 0) ∧
  (r.dir = true → r.eStart.toNat + 1 ≤ r.i.toNat ∧ r.i.toNat + 3 ≤ r.rangeEnd.toNat ∧
    (r.i.toNat - r.eStart.toNat) % 2 = 1)

/-- INV6 and INV8 with the parity and the bounds CHECK saw, what a running step finds. -/
def PairInRange (r : Regs c) : Prop :=
  (r.dir = false → r.eStart.toNat ≤ r.i.toNat ∧ r.i.toNat + 2 ≤ r.rangeEnd.toNat ∧
    (r.i.toNat - r.eStart.toNat) % 2 = 0) ∧
  (r.dir = true → r.eStart.toNat + 3 ≤ r.i.toNat ∧ r.i.toNat + 3 ≤ r.rangeEnd.toNat ∧
    (r.i.toNat - r.eStart.toNat) % 2 = 1)

theorem inv_offsetInRange (h : Inv s) (hS : s.regs.S = 0x1#4) : OffsetInRange s.regs :=
  ⟨fun hd => h.fwdCheck hd hS, fun hd => h.revCheck hd hS⟩

theorem inv_pairInRange (h : Inv s) (hS : InStep s.regs.S) : PairInRange s.regs :=
  ⟨fun hd => ⟨(h.fwdParity hd hS).1, h.fwdStep hd hS, (h.fwdParity hd hS).2⟩,
    fun hd => ⟨h.revStep hd hS, h.revParity hd hS⟩⟩

theorem rangeEnd_congr {r r' : Regs c} (h : SameScan r r') : r'.rangeEnd = r.rangeEnd := by
  obtain ⟨_, _, hs, hl⟩ := h
  rw [Regs.rangeEnd, Regs.rangeEnd, hs, hl]

theorem pairInRange_congr {r r' : Regs c} (h : SameScan r r') : PairInRange r' ↔ PairInRange r := by
  have hE := rangeEnd_congr h
  obtain ⟨hd, hi, hs, _⟩ := h
  simp only [PairInRange, hE, hd, hi, hs]

/-- `go` in the forward direction (R142). -/
theorem go_forward {r : Regs c} (hd : r.dir = false) : r.go = true ↔ r.i.toNat < r.rangeEnd.toNat ∧ r.sw = false := by
  simp [Regs.go, hd, BitVec.lt_def]

/-- `go` in reverse (R142). -/
theorem go_reverse {r : Regs c} (hd : r.dir = true) :
    r.go = true ↔ r.reverseLimit.toNat ≤ r.i.toNat ∧ r.sw = false := by
  simp [Regs.go, hd, BitVec.le_def]

/-- `go` is 0 while a switch is requested (R142). -/
theorem sw_of_go {r : Regs c} (h : r.go = true) : r.sw = false := by
  cases hd : r.dir with
  | false => exact ((go_forward hd).1 h).2
  | true => exact ((go_reverse hd).1 h).2

/-- Where CHECK goes on, a whole pair is left: the parity turns `i < E` into `i + 2 <= E`, and in reverse
`e_start + 2 <= i` into `e_start + 3 <= i`. -/
theorem pairInRange_of_go (h : Inv s) (hS : s.regs.S = 0x1#4) (hgo : s.regs.go = true) : PairInRange s.regs := by
  have hS0 : s.regs.S ≠ 0x0#4 := by simp [hS]
  obtain ⟨hfwd, hrev⟩ := inv_offsetInRange h hS
  obtain ⟨heven, hmin, _, hfit⟩ := inv_latched h hS0
  have hE := inv_rangeEnd h hS0
  refine ⟨fun hd => ?_, fun hd => ?_⟩
  · have hlt := ((go_forward hd).1 hgo).1
    have hrange := hfwd hd
    omega
  · have hle := ((go_reverse hd).1 hgo).1
    rw [reverseLimit_toNat (inv_config h) (by omega)] at hle
    have hrange := hrev hd
    omega

/-- FWD_INIT starts at the active entry's first pair (R141). -/
theorem fwdInit_entry (hc : WellFormedConfig s.cfg) :
    (execRegs .fwdInit s).eStart.toNat = s.regs.activeEntry.start ∧
      (execRegs .fwdInit s).eLen.toNat = s.regs.activeEntry.len := by
  have hfit := entry_lt_two_pow_cw hc (isCatLookup_mem (isCatLookup_catLookup hc.nPat.1 s.regs.idx.toNat))
  exact ⟨ofNat_toNat_of_lt (by unfold Regs.activeEntry; omega), ofNat_toNat_of_lt (by unfold Regs.activeEntry; omega)⟩

/-- FWD_INIT puts the offset at the start of its entry. -/
theorem fwdInit_offsetInRange (hc : WellFormedConfig s.cfg) : OffsetInRange (execRegs .fwdInit s) := by
  obtain ⟨hs, hl⟩ := fwdInit_entry hc
  have hfit := entry_lt_two_pow_cw hc (isCatLookup_mem (isCatLookup_catLookup hc.nPat.1 s.regs.idx.toNat))
  have hE : (execRegs .fwdInit s).rangeEnd.toNat = _ := rangeEnd_toNat (by rw [hs, hl]; exact hfit)
  have hi : (execRegs .fwdInit s).i = (execRegs .fwdInit s).eStart := rfl
  refine ⟨fun _ => ?_, fun hd => by cases hd⟩
  rw [hE, hi]
  omega

/-- POLL3 moves to the next pair, at most to the end of the range (R146). -/
theorem poll3_offsetInRange (h : Inv s) (hS : s.regs.S = 0xA#4) : OffsetInRange (execRegs .poll3 s) := by
  have hc := inv_config h
  have hS0 : s.regs.S ≠ 0x0#4 := by simp [hS]
  obtain ⟨hfwd, hrev⟩ := inv_pairInRange h (by simp [InStep, hS])
  obtain ⟨_, _, _, hfit⟩ := inv_latched h hS0
  have hE := inv_rangeEnd h hS0
  have hd' : (execRegs .poll3 s).dir = s.regs.dir := by simp [execRegs, State.poll3Rule]
  have hs' : (execRegs .poll3 s).eStart = s.regs.eStart := by simp [execRegs, State.poll3Rule]
  have hE' : (execRegs .poll3 s).rangeEnd = s.regs.rangeEnd := by simp [execRegs, State.poll3Rule, Regs.rangeEnd]
  have hi' : (execRegs .poll3 s).i = s.regs.nextOffset := rfl
  refine ⟨fun hd => ?_, fun hd => ?_⟩ <;> rw [hd'] at hd <;> rw [hs', hE', hi']
  · have hrange := hfwd hd
    rw [nextOffset_forward hc hd (by omega)]
    omega
  · have hrange := hrev hd
    have hnext := nextOffset_reverse hc hd (by omega)
    omega

/-- REV_INIT starts at the last pair but one (R148). -/
theorem revInit_offsetInRange (h : Inv s) (hS : s.regs.S = 0xC#4) : OffsetInRange (execRegs .revInit s) := by
  have hS0 : s.regs.S ≠ 0x0#4 := by simp [hS]
  obtain ⟨heven, hmin, _, hfit⟩ := inv_latched h hS0
  have hE : (execRegs .revInit s).rangeEnd.toNat = _ := inv_rangeEnd h hS0
  have hstart := reverseStart_toNat (inv_config h) hfit (by omega)
  have hi : (execRegs .revInit s).i = s.regs.reverseStart := rfl
  have hs : (execRegs .revInit s).eStart = s.regs.eStart := rfl
  refine ⟨fun hd => (by cases hd), fun _ => ?_⟩
  rw [hE, hi, hs]
  omega

/-! ## One operation keeps the invariants, group by group -/

/-- Under the invariants the code is legal. -/
theorem inv_legal (h : Inv s) (hi : s.regs.S = encode i) : (encode i).toNat ≤ 0xC := hi ▸ h.code

/-- Only FWD_INIT has code 0. -/
theorem eq_fwdInit_of_S (hi : s.regs.S = encode i) (hS : s.regs.S = 0x0#4) : i = .fwdInit := by
  rw [hi] at hS
  revert hS; cases i <;> decide

/-- INV2 and INV3. -/
theorem execRegs_index_level (h : Inv s) (hi : s.regs.S = encode i) :
    (execRegs i s).idx.toNat < s.cfg.nPat ∧ isLevel s.cfg (execRegs i s).delay.toNat := by
  have hc := inv_config h
  rcases execRegs_playback (s := s) (inv_legal h hi) with ⟨hidx, hdelay⟩ | ⟨hidx, hdelay⟩ <;> rw [hidx, hdelay]
  · exact ⟨h.index, h.level⟩
  · exact ⟨poll_idx_lt hc h.index, poll_isLevel hc h.level⟩

/-- INV4 after an operation: from FWD_INIT on, the latched entry is one of the catalog. -/
theorem execRegs_latchedEntry (h : Inv s) (hi : s.regs.S = encode i) :
    ∃ e ∈ s.cfg.catalog, (execRegs i s).eStart.toNat = e.start ∧ (execRegs i s).eLen.toNat = e.len := by
  have hc := inv_config h
  by_cases hf : i = .fwdInit
  · subst hf
    exact ⟨_, isCatLookup_mem (isCatLookup_catLookup hc.nPat.1 _), fwdInit_entry hc⟩
  · obtain ⟨hs, hl⟩ := execRegs_entry (s := s) (inv_legal h hi) hf
    rw [hs, hl]
    exact h.entry.resolve_left fun ⟨hS, _⟩ => hf (eq_fwdInit_of_S hi hS)

/-- C4: the latched entry stays the active one until a switch is requested. -/
theorem execRegs_active (h : Inv s) (hi : s.regs.S = encode i) (hsw : (execRegs i s).sw = false)
    (hS : (execRegs i s).S ≠ 0x0#4) :
    ∃ e, IsCatLookup s.cfg (execRegs i s).idx.toNat e ∧
      (execRegs i s).eStart.toNat = e.start ∧ (execRegs i s).eLen.toNat = e.len := by
  have hc := inv_config h
  by_cases hf : i = .fwdInit
  · subst hf
    exact ⟨_, isCatLookup_catLookup hc.nPat.1 _, fwdInit_entry hc⟩
  · obtain ⟨hs, hl⟩ := execRegs_entry (s := s) (inv_legal h hi) hf
    obtain ⟨hsw0, hidx⟩ := execRegs_noSwitch (inv_legal h hi) hS hsw
    rw [hs, hl, hidx]
    exact h.active hsw0 fun hS0 => hf (eq_fwdInit_of_S hi hS0)

/-- INV5 and INV7 after an operation that leads to CHECK. -/
theorem execRegs_offsetInRange (h : Inv s) (hi : s.regs.S = encode i) (hS : (execRegs i s).S = 0x1#4) :
    OffsetInRange (execRegs i s) := by
  rcases eq_of_check_mem_successors (hS ▸ execRegs_S_mem hi) with rfl | rfl | rfl
  · exact fwdInit_offsetInRange (inv_config h)
  · exact poll3_offsetInRange h hi
  · exact revInit_offsetInRange h hi

/-- INV6 and INV8 after an operation that leads into a running step. -/
theorem execRegs_pairInRange (h : Inv s) (hi : s.regs.S = encode i) (hS : InStep (execRegs i s).S) :
    PairInRange (execRegs i s) := by
  have hfrom := eq_of_inStep_mem_successors (execRegs_S_mem hi) hS
  rw [pairInRange_congr (execRegs_sameScan hfrom)]
  rcases hfrom with rfl | ⟨hstep, _⟩
  · exact pairInRange_of_go h hi (go_of_execRegs_check fun hB => by simp [InStep, hB] at hS)
  · exact inv_pairInRange h (hi ▸ hstep)

/-- Counting down from a value other than 0 does not wrap. -/
theorem toNat_sub_one_of_ne_zero {w : Nat} {x : BitVec w} (h : x ≠ 0) : (x - 1).toNat = x.toNat - 1 := by
  have hpos : x.toNat ≠ 0 := fun h0 => h (BitVec.eq_of_toNat_eq (by simpa using h0))
  have hone : (1 : BitVec w).toNat = 1 := ofNat_toNat_of_lt (n := 1) (by have := x.isLt; omega)
  rw [BitVec.toNat_sub_of_le (by rw [BitVec.le_def]; omega), hone]

/-- INV9 after an operation that leads to DELAY: POLL2 loads a level, and DELAY counts down while ticks are left. -/
theorem execRegs_counter (h : Inv s) (hi : s.regs.S = encode i) (hS : (execRegs i s).S = 0x9#4) :
    1 ≤ (execRegs i s).ticks.toNat ∧ (execRegs i s).ticks.toNat ≤ (execRegs i s).delay.toNat ∧
      (execRegs i s).pre.toNat ≤ s.cfg.tickCycles - 1 := by
  have hc := inv_config h
  rcases eq_of_delay_mem_successors (hS ▸ execRegs_S_mem hi) with rfl | rfl
  · obtain ⟨m, hm, _⟩ := (execRegs_index_level h hi).2
    have hbase := hc.delay.1
    have hticks : (execRegs .poll2 s).ticks = (execRegs .poll2 s).delay := rfl
    have hpre : (execRegs .poll2 s).pre = tickReload s.cfg := rfl
    rw [hticks, hpre, tickReload_toNat]
    exact ⟨by omega, le_rfl, le_rfl⟩
  · obtain ⟨hlo, hhi, hpre⟩ := h.counter hi
    cases hrun : s.regs.tickRuns with
    | true =>
      have hne : s.regs.pre ≠ 0 := by simpa [Regs.tickRuns] using hrun
      have hsub := toNat_sub_one_of_ne_zero hne
      have hdown : execRegs .delay s =
          ({ s.regs with pre := s.regs.pre - 1 } : Regs s.cfg).synchronise s.portIn := by
        simp [execRegs, State.delayRule, hrun]
      rw [hdown]
      exact ⟨hlo, hhi, hsub.trans_le (by omega)⟩
    | false =>
      have hlast : s.regs.lastTick = false := by
        cases hl : s.regs.lastTick with
        | false => rfl
        | true => simp [execRegs, State.delayRule, hrun, hl, encode] at hS
      have hlt : 1 < s.regs.ticks.toNat := by simpa [Regs.lastTick] using hlast
      have hsub := toNat_sub_one_of_ne_zero (x := s.regs.ticks) (by rintro h0; simp [h0] at hlt)
      have hlo' : 1 ≤ (s.regs.ticks - 1).toNat := by omega
      have hhi' : (s.regs.ticks - 1).toNat ≤ s.regs.delay.toNat := by omega
      have hdown : execRegs .delay s =
          ({ s.regs with ticks := s.regs.ticks - 1, pre := tickReload s.cfg } : Regs s.cfg).synchronise s.portIn := by
        simp [execRegs, State.delayRule, hrun, hlast]
      rw [hdown]
      exact ⟨hlo', hhi', (tickReload_toNat s.cfg).le⟩

/-- R101: a byte that LOAD_B follows is the pair's first. -/
theorem execRegs_firstByte (hi : s.regs.S = encode i) (hS : (execRegs i s).S = 0x3#4) : (execRegs i s).k = false := by
  obtain rfl := eq_of_loadB_mem_successors (hS ▸ execRegs_S_mem hi)
  cases hk : s.regs.k with
  | false => exact hk
  | true =>
    cases hl : s.regs.lastBit <;> simp [execRegs, State.shiftHiRule, Regs.afterBit, encode, hl, hk] at hS

/-- R104: a byte that LATCH follows is the pair's second. -/
theorem execRegs_secondByte (hi : s.regs.S = encode i) (hS : (execRegs i s).S = 0x6#4) : (execRegs i s).k = true := by
  obtain rfl := eq_of_latch_mem_successors (hS ▸ execRegs_S_mem hi)
  cases hk : s.regs.k with
  | true => exact hk
  | false =>
    cases hl : s.regs.lastBit <;> simp [execRegs, State.shiftHiRule, Regs.afterBit, encode, hl, hk] at hS

/-- R141: PASS_END clears `sw` on its way to FWD_INIT. -/
theorem execRegs_restart (h : Inv s) (hi : s.regs.S = encode i) (hS : (execRegs i s).S = 0x0#4) :
    (execRegs i s).sw = false := by
  obtain rfl := eq_of_fwdInit_mem_successors (hS ▸ execRegs_S_mem hi) (inv_legal h hi)
  cases hr : s.regs.reverseFollows with
  | true => simp [execRegs, State.passEndRule, encode, hr] at hS
  | false => simp [execRegs, State.passEndRule, hr]

/-- R142: CHECK starts a pair with `sw` at 0, and the sending leaves it there. -/
theorem execRegs_sending (h : Inv s) (hi : s.regs.S = encode i) (h2 : 0x2 ≤ (execRegs i s).S.toNat)
    (h7 : (execRegs i s).S.toNat ≤ 0x7) : (execRegs i s).sw = false := by
  have hfrom := eq_of_sending_mem_successors (execRegs_S_mem hi) h2 h7
  rw [execRegs_sw_sending hfrom]
  rcases hfrom with rfl | ⟨hlo, hhi⟩
  · exact sw_of_go (go_of_execRegs_check fun hB => by simp [hB] at h7)
  · exact h.sending (hi ▸ hlo) (hi ▸ hhi.trans (by decide))

/-- SHIFT_HI goes on shifting until the byte's last bit (R103). -/
theorem shifting_execRegs_shiftHi : Shifting (execRegs .shiftHi s).S ↔ s.regs.lastBit = false := by
  cases hl : s.regs.lastBit <;> cases hk : s.regs.k <;>
    simp [execRegs, State.shiftHiRule, Regs.afterBit, Shifting, encode, hl, hk]

/-- INV10 and INV11 after an operation that leads to SHIFT_LO or SHIFT_HI. -/
theorem execRegs_shifting (h : Inv s) (hi : s.regs.S = encode i) (hS : Shifting (execRegs i s).S) :
    (execRegs i s).shreg = (s.later 1 (execRegs i s)).currentByte >>> (execRegs i s).bitcnt.toNat := by
  rcases eq_of_shifting_mem_successors (execRegs_S_mem hi) hS with rfl | rfl | rfl | rfl
  · exact (BitVec.ushiftRight_zero _).symm
  · exact (BitVec.ushiftRight_zero _).symm
  · exact h.shifting (.inl hi)
  · have hlast : s.regs.bitcnt ≠ 7 := by simpa [Regs.lastBit] using shifting_execRegs_shiftHi.1 hS
    have hcount : (s.regs.bitcnt + 1).toNat = s.regs.bitcnt.toNat + 1 := by bv_omega
    have hbyte : s.regs.shreg = s.currentByte >>> s.regs.bitcnt.toNat := h.shifting (.inr hi)
    calc s.regs.shreg >>> 1
        = s.currentByte >>> (s.regs.bitcnt.toNat + 1) := by rw [hbyte, BitVec.shiftRight_add]
      _ = s.currentByte >>> (s.regs.bitcnt + 1).toNat := by rw [hcount]

/-- R105 after an operation that leads out of SHIFT_LO and SHIFT_HI: eight shifts empty the register. -/
theorem execRegs_idle (h : Inv s) (hi : s.regs.S = encode i) (hS : ¬ Shifting (execRegs i s).S) :
    (execRegs i s).shreg = 0 := by
  by_cases hhi : i = .shiftHi
  · subst hhi
    have hlast : s.regs.bitcnt = 7 := by
      simpa [Regs.lastBit] using fun hl => hS (shifting_execRegs_shiftHi.2 hl)
    have hbyte : s.regs.shreg = s.currentByte >>> s.regs.bitcnt.toNat := h.shifting (.inr hi)
    calc s.regs.shreg >>> 1
        = s.currentByte >>> (7 + 1) := by rw [hbyte, hlast, BitVec.shiftRight_add]; rfl
      _ = 0 := BitVec.ushiftRight_eq_zero le_rfl
  · have hA : i ≠ .loadA := by rintro rfl; exact hS (.inl rfl)
    have hB : i ≠ .loadB := by rintro rfl; exact hS (.inl rfl)
    have hlo : i ≠ .shiftLo := by rintro rfl; exact hS (.inr rfl)
    rw [execRegs_shreg (inv_legal h hi) ⟨hA, hB, hhi⟩]
    refine h.idle ?_
    rw [hi]
    unfold Shifting
    revert hhi hlo; cases i <;> decide

/-! ## Every reachable state -/

/-- An operation run from its own code keeps the invariants. -/
theorem execRegs_keeps_inv (h : Inv s) (hi : s.regs.S = encode i) : Inv (s.later 1 (execRegs i s)) where
  config     := h.config
  storeForm  := h.storeForm
  code       := successors_legal i _ (execRegs_S_mem hi)
  index      := (execRegs_index_level h hi).1
  level      := (execRegs_index_level h hi).2
  entry      := .inr (execRegs_latchedEntry h hi)
  fwdCheck   := fun hd hS => (execRegs_offsetInRange h hi hS).1 hd
  fwdStep    := fun hd hS => ((execRegs_pairInRange h hi hS).1 hd).2.1
  revCheck   := fun hd hS => (execRegs_offsetInRange h hi hS).2 hd
  revStep    := fun hd hS => ((execRegs_pairInRange h hi hS).2 hd).1
  counter    := execRegs_counter h hi
  shifting   := execRegs_shifting h hi
  fwdParity  := fun hd hS => ⟨((execRegs_pairInRange h hi hS).1 hd).1, ((execRegs_pairInRange h hi hS).1 hd).2.2⟩
  revParity  := fun hd hS => ((execRegs_pairInRange h hi hS).2 hd).2
  idle       := execRegs_idle h hi
  firstByte  := execRegs_firstByte hi
  secondByte := execRegs_secondByte hi
  restart    := execRegs_restart h hi
  sending    := execRegs_sending h hi
  active     := execRegs_active h hi

/-- The registers a reset edge loads are R44's. -/
theorem isResetState_reset (c : Config) : IsResetState (Regs.reset c) := by
  simp [IsResetState, Regs.reset]

/-- `RESET_STATE` meets the invariants under every well-formed configuration and canonical store. -/
theorem inv_of_isResetState (hc : s.cfg.wf = true) (hm : Memory.wf s.cfg s.store = true) (hr : IsResetState s.regs) :
    Inv s := by
  have hw := (wf_iff _).1 hc
  obtain ⟨hbase, hwrap, _⟩ := hw.delay
  have hreg := hw.delayReg
  obtain ⟨hS, _, _, _, hsh, _, hs, hl, _, _, hidx, _, hdelay, hsw, _⟩ := hr
  have hlevel : s.regs.delay.toNat = s.cfg.delayBase := by rw [hdelay]; exact ofNat_toNat_of_lt (by omega)
  have hindex : s.regs.idx.toNat < s.cfg.nPat := by rw [hidx]; exact hw.nPat.1
  refine { config := hc, storeForm := hm, index := hindex, level := ⟨0, by simpa using hlevel, hlevel ▸ hwrap⟩,
           entry := .inl ⟨hS, hs, hl⟩, idle := fun _ => hsh, restart := fun _ => hsw, sending := fun _ _ => hsw,
           code := ?_, fwdCheck := ?_, fwdStep := ?_, revCheck := ?_, revStep := ?_, counter := ?_, shifting := ?_,
           fwdParity := ?_, revParity := ?_, firstByte := ?_, secondByte := ?_, active := ?_ }
  -- Every other clause speaks of codes other than 0.
  all_goals simp [hS, InStep, Shifting]

/-- Every step keeps the invariants. -/
theorem step_keeps_inv (s t : State) (h : Inv s) (hst : step s = .next t) : Inv t := by
  obtain ⟨_, rfl⟩ := step_next hst
  unfold nextRegs
  split
  · exact inv_of_isResetState h.config h.storeForm (isResetState_reset s.cfg)
  · exact execRegs_keeps_inv h (encode_decodeCode s.regs.S).symm

/-- Settles O42: the invariants hold at reset and every step keeps them, by induction on the number of cycles. -/
theorem reachableStatesMeetTheInvariants : Obligations.ReachableStatesMeetTheInvariants :=
  fun _ _ _ hc hm hr hrun => cycles_induct step_keeps_inv (inv_of_isResetState hc hm hr) hrun

end Sys2Proof.Proofs
end

section
/-! PROOFS. The state as a whole: the reset state, the outputs, what no step changes, which operation writes a register,
where the pattern index acts, and the waveform of the serial line. -/

namespace Sys2Proof.Proofs

open Sys2Proof.Machine Sys2Proof.Laws

variable {c : Config} {s : State} {i : Instr}

/-! ## The reset state and the outputs -/

/-- Settles O5: the listed values are those of every `Regs.reset`, and the reference configuration has the numbers. -/
theorem resetStateIsAsListed : Obligations.ResetStateIsAsListed :=
  ⟨isResetState_reset, isResetState_reset _, by decide, by decide⟩

/-- Settles O17: the output function is R38's and R51's; its cut to `ADDR_W` bits is a remainder. -/
theorem outputsAreDrivenFromTheState : Obligations.OutputsAreDrivenFromTheState :=
  fun _ => ⟨rfl, rfl, rfl, BitVec.toNat_setWidth _ _⟩

/-- `ser_clk` is high in SHIFT_HI alone (R38). -/
theorem serClk_iff : s.outputs.serClk = true ↔ s.regs.S = 0x5#4 := beq_iff_eq

/-- `latch` is high in LATCH alone (R38). -/
theorem latch_iff : s.outputs.latch = true ↔ s.regs.S = 0x6#4 := beq_iff_eq

/-- Settles O40: the reference configuration passes R8, and the reset state lists no byte. -/
theorem resetMeetsTheInvariants : Obligations.ResetMeetsTheInvariants :=
  inv_of_isResetState hw_wf reset_storeForm (isResetState_reset Config.hw)

/-! ## The waveform of one byte -/

/-- Bit `j` of the byte `b` is on the line: the code is `w`, the shift register holds `b` shifted by `j`, `k` says which
byte of the pair `b` is. -/
structure BitOnLine (r : Regs c) (w : Code) (b : Byte) (k : Bool) (j : Nat) : Prop where
  code  : r.S = w
  shreg : r.shreg = b >>> j
  count : r.bitcnt = BitVec.ofNat 3 j
  byte  : r.k = k

/-- The level of `ser_data` while bit `j` is on the line (R38). -/
theorem serData_of_bitOnLine {w : Code} {b : Byte} {k : Bool} {j : Nat} (h : BitOnLine s.regs w b k j) :
    s.outputs.serData = b.getLsbD j := by
  simp [State.outputs, h.shreg]

/-- The state is at the load of the byte `b`: LOAD_A's or LOAD_B's (R100, R101). -/
def Loads (s : State) (b : Byte) : Prop :=
  s.regs.S = 0x2#4 ∧ b = s.memRead s.regs.aFirst ∨ s.regs.S = 0x3#4 ∧ b = s.memRead s.regs.aSecond

/-- A load puts bit 0 of its byte on the line (R100, R101). -/
theorem bitOnLine_of_loads {b : Byte} (h : Loads s b) :
    BitOnLine (execRegs (decodeCode s.regs.S) s) 0x4#4 b (decide (s.regs.S = 0x3#4)) 0 := by
  rcases h with ⟨hS, rfl⟩ | ⟨hS, rfl⟩ <;> rw [hS]
  · exact ⟨rfl, (BitVec.ushiftRight_zero _).symm, rfl, rfl⟩
  · exact ⟨rfl, (BitVec.ushiftRight_zero _).symm, rfl, rfl⟩

/-- SHIFT_LO leaves the bit on the line for SHIFT_HI (R102). -/
theorem bitOnLine_shiftLo {w : Code} {b : Byte} {k : Bool} {j : Nat} (h : BitOnLine s.regs w b k j) :
    BitOnLine (execRegs .shiftLo s) 0x5#4 b k j :=
  ⟨rfl, h.shreg, h.count, h.byte⟩

/-- SHIFT_HI before the byte's last bit puts the next bit on the line (R103). -/
theorem bitOnLine_shiftHi {w : Code} {b : Byte} {k : Bool} {j : Nat} (hj : j < 7) (h : BitOnLine s.regs w b k j) :
    BitOnLine (execRegs .shiftHi s) 0x4#4 b k (j + 1) where
  code := by
    have hlast : s.regs.lastBit = false := by
      rw [Regs.lastBit, h.count]; interval_cases j <;> rfl
    simp [execRegs, State.shiftHiRule, Regs.afterBit, encode, hlast]
  shreg := by
    show s.regs.shreg >>> 1 = _
    rw [h.shreg, BitVec.shiftRight_add]
  count := by
    show s.regs.bitcnt + 1 = _
    rw [h.count, BitVec.ofNat_add]
    rfl
  byte := h.byte

/-- SHIFT_HI of the last bit leaves an empty shift register, and LOAD_B or LATCH next (R103). -/
theorem shiftHi_lastBit {w : Code} {b : Byte} {k : Bool} (h : BitOnLine s.regs w b k 7) :
    (execRegs .shiftHi s).S = (if k then 0x6#4 else 0x3#4) ∧ (execRegs .shiftHi s).shreg = 0 := by
  constructor
  · have hlast : s.regs.lastBit = true := by rw [Regs.lastBit, h.count]; rfl
    cases k <;> simp [execRegs, State.shiftHiRule, Regs.afterBit, encode, hlast, h.byte]
  · calc s.regs.shreg >>> 1
        = b >>> (7 + 1) := by rw [h.shreg, BitVec.shiftRight_add]
      _ = 0 := BitVec.ushiftRight_eq_zero le_rfl

/-- Bit `j` of a loaded byte is on the line in two cycles, `2j + 1` with the clock low and `2j + 2` with it high. -/
theorem loads_bitOnLine {b : Byte} (hn : NoReset s 17) (h : Loads s b) {j : Nat} (hj : j < 8) :
    BitOnLine (regsAfter s (2 * j + 1)) 0x4#4 b (decide (s.regs.S = 0x3#4)) j ∧
      BitOnLine (regsAfter s (2 * j + 2)) 0x5#4 b (decide (s.regs.S = 0x3#4)) j := by
  have hhigh {m : Nat} (hm : m < 8) (hlo : BitOnLine (regsAfter s (2 * m + 1)) 0x4#4 b (decide (s.regs.S = 0x3#4)) m) :
      BitOnLine (regsAfter s (2 * m + 2)) 0x5#4 b (decide (s.regs.S = 0x3#4)) m := by
    rw [regsAfter_succ_of (hn _ (by omega)) hlo.code]
    exact bitOnLine_shiftLo (s := stateAfter s (2 * m + 1)) hlo
  suffices hlow : BitOnLine (regsAfter s (2 * j + 1)) 0x4#4 b (decide (s.regs.S = 0x3#4)) j from
    ⟨hlow, hhigh hj hlow⟩
  induction j with
  | zero =>
    rw [regsAfter_succ_of (n := 0) (hn 0 (by omega)) rfl]
    exact bitOnLine_of_loads h
  | succ m ih =>
    have hhi := hhigh (by omega) (ih (by omega))
    rw [show 2 * (m + 1) + 1 = 2 * m + 2 + 1 from rfl, regsAfter_succ_of (hn _ (by omega)) hhi.code]
    exact bitOnLine_shiftHi (s := stateAfter s (2 * m + 2)) (by omega) hhi

/-- Settles O13: the bits of a loaded byte, one after the other, and R105's idle line from the invariants. -/
theorem byteGoesOutLeastSignificantBitFirst : Obligations.ByteGoesOutLeastSignificantBitFirst := by
  refine ⟨fun s b hc hn hload => ⟨fun j hj1 hj8 => ?_, regsAfter s 17, cycles_eq hc 17, ?_⟩, fun s h hS => ?_⟩
  · obtain ⟨m, rfl⟩ : ∃ m, j = m + 1 := ⟨j - 1, by omega⟩
    obtain ⟨hlo, hhi⟩ := loads_bitOnLine hn hload (j := m) (by omega)
    refine ⟨regsAfter s (2 * m + 1), regsAfter s (2 * m + 2), cycles_eq hc _, hlo.code,
      serData_of_bitOnLine (s := stateAfter s _) hlo, ?_, hlo.byte, cycles_eq hc _, hhi.code,
      serData_of_bitOnLine (s := stateAfter s _) hhi, ?_, hhi.byte⟩
    · exact Bool.eq_false_iff.2 (by simp [serClk_iff, hlo.code])
    · exact serClk_iff.2 hhi.code
  · have hhi := (loads_bitOnLine hn hload (j := 7) (by omega)).2
    obtain ⟨hS, hempty⟩ := shiftHi_lastBit (s := stateAfter s 16) hhi
    rw [regsAfter_succ_of (hn 16 (by omega)) hhi.code]
    refine ⟨hS.trans ?_, hempty⟩
    rcases hload with ⟨hA, _⟩ | ⟨hB, _⟩
    · simp [hA]
    · simp [hB]
  · have hempty := h.idle hS
    exact ⟨hempty, by simp [State.outputs, hempty]⟩

/-! ## The timing of the serial lines -/

/-- What leads to SHIFT_HI. -/
theorem eq_of_shiftHi_mem_successors (h : 0x5#4 ∈ successors i) : i = .shiftLo := by
  revert h; cases i <;> decide

/-- A step that leaves a code other than FWD_INIT's ran the operation of its own code: a reset leads to FWD_INIT. -/
theorem nextRegs_of_ne_fwdInit (h : (nextRegs s).S ≠ 0x0#4) : nextRegs s = execRegs (decodeCode s.regs.S) s := by
  cases hr : s.portIn.rst with
  | true => exact absurd (by simp [nextRegs, hr, Regs.reset]) h
  | false => exact nextRegs_of hr rfl

/-- The code a step leaves, if not FWD_INIT's, is a successor of the code before it. -/
theorem nextRegs_S_mem (h : (nextRegs s).S ≠ 0x0#4) : (nextRegs s).S ∈ successors (decodeCode s.regs.S) := by
  rw [nextRegs_of_ne_fwdInit h]
  exact execRegs_S_mem (encode_decodeCode _).symm

/-- `ser_clk` rises after SHIFT_LO, on the bit that SHIFT_LO held (R102). -/
theorem shiftLo_of_next_shiftHi (h : (nextRegs s).S = 0x5#4) :
    s.regs.S = 0x4#4 ∧ (nextRegs s).shreg = s.regs.shreg := by
  have hne : (nextRegs s).S ≠ 0x0#4 := by simp [h]
  have hop := eq_of_shiftHi_mem_successors (h ▸ nextRegs_S_mem hne)
  refine ⟨(encode_decodeCode s.regs.S).symm.trans (congrArg encode hop), ?_⟩
  rw [nextRegs_of_ne_fwdInit hne, hop]
  rfl

/-- `latch` rises after SHIFT_HI (R103). -/
theorem shiftHi_of_next_latch (h : (nextRegs s).S = 0x6#4) : s.regs.S = 0x5#4 := by
  have hop := eq_of_latch_mem_successors (h ▸ nextRegs_S_mem (by simp [h]))
  exact (encode_decodeCode s.regs.S).symm.trans (congrArg encode hop)

/-- Settles O16: the codes before SHIFT_HI and before LATCH are SHIFT_LO and SHIFT_HI, whatever the inputs. -/
theorem serialLinesKeepTheirTiming : Obligations.SerialLinesKeepTheirTiming := by
  intro s t hst
  obtain ⟨_, rfl⟩ := step_next hst
  simp only [← Bool.not_eq_true, serClk_iff, latch_iff, State.later_regs]
  refine ⟨fun hS hS' => ?_, fun hS hS' => ?_, fun ⟨hS, hS'⟩ => ?_, shiftHi_of_next_latch, fun hS' => ?_⟩
  · have hlo := (shiftLo_of_next_shiftHi hS').1
    simp [hS] at hlo
  · have hhi := shiftHi_of_next_latch hS'
    simp [hS] at hhi
  · simp [hS] at hS'
  · obtain ⟨hlo, hshreg⟩ := shiftLo_of_next_shiftHi hS'
    exact ⟨by simp [hlo], by simp [State.outputs, hshreg]⟩

/-! ## What no step changes -/

/-- Settles O19: a step changes the registers and spends an input, and nothing else. -/
theorem storeAndConfigurationNeverChange : Obligations.StoreAndConfigurationNeverChange := by
  intro s t hst
  obtain ⟨_, rfl⟩ := step_next hst
  exact ⟨State.later_cfg s 1 _, State.later_store s 1 _, State.later_storeByte s 1 _, id⟩

/-! ## The writers of the registers -/

/-- PASS_END changes the switch request only to 0 (R147). -/
theorem execRegs_passEnd_sw (h : (execRegs .passEnd s).sw ≠ s.regs.sw) : (execRegs .passEnd s).sw = false := by
  cases hr : s.regs.reverseFollows with
  | true => simp [execRegs, State.passEndRule, hr] at h
  | false => simp [execRegs, State.passEndRule, hr]

/-- A poll changes the switch request only to 1 (R125). -/
theorem poll_sw {r : Regs c} (h : r.poll.sw ≠ r.sw) : r.poll.sw = true := by
  rcases poll_pattern r with ⟨_, hsw⟩ | ⟨_, hsw⟩
  · exact absurd hsw h
  · exact hsw

/-- Settles O38, operation by operation: the frame of each, and what a poll and PASS_END do to `sw`. -/
theorem registersHaveOnlyTheirNamedWriters : Obligations.RegistersHaveOnlyTheirNamedWriters := by
  intro s i hD hE hF
  refine ⟨execRegs i s, exec_eq i s, ?_⟩
  cases i with
  | fwdInit => simp [execRegs, State.fwdInitRule]
  | check => simp [execRegs, State.checkRule]
  | loadA => simp [execRegs, State.loadARule]
  | loadB => simp [execRegs, State.loadBRule]
  | shiftLo => simp [execRegs, State.shiftLoRule]
  | shiftHi => simp [execRegs, State.shiftHiRule]
  | latch => simp [execRegs, State.latchRule]
  | revInit => simp [execRegs, State.revInitRule]
  | poll1 => simpa [execRegs, State.poll1Rule] using poll_sw
  | poll2 => simpa [execRegs, State.poll2Rule] using poll_sw
  | poll3 => simpa [execRegs, State.poll3Rule] using poll_sw
  | delay =>
    obtain ⟨_, _, _, hr⟩ := execRegs_delay_frame s
    simp [hr]
  | passEnd =>
    have hsw := execRegs_passEnd_sw (s := s)
    obtain ⟨_, _, hr⟩ := execRegs_passEnd_frame s
    rw [hr] at hsw ⊢
    simpa using hsw
  | reservedD => exact absurd rfl hD
  | reservedE => exact absurd rfl hE
  | reservedF => exact absurd rfl hF

/-! ## Where the pattern index acts -/

/-- The two register states differ in the pattern index at most. -/
def SameButIdx (r r' : Regs c) : Prop := ∃ w, r' = { r with idx := w }

/-- Registers computed without the pattern index, from such registers, differ in it at most. -/
theorem SameButIdx.map {r r' : Regs c} (h : SameButIdx r r') (f : Regs c → Regs c)
    (hf : ∀ q w, f { q with idx := w } = { f q with idx := w }) : SameButIdx (f r) (f r') := by
  obtain ⟨w, rfl⟩ := h
  exact ⟨w, hf r w⟩

/-- The pattern action reads the pattern index for nothing but the next pattern index (R125). -/
theorem patternAction_sameButIdx (r : Regs c) (v : BitVec c.iw) :
    SameButIdx r.patternAction ({ r with idx := v } : Regs c).patternAction := by
  cases hr : r.rev <;> simp only [SameButIdx, Regs.patternAction, hr] <;> exact ⟨_, rfl⟩

/-- The pattern debouncer's part of a poll reads it in its action only (R122). -/
theorem pollPattern_sameButIdx (r : Regs c) (v : BitVec c.iw) :
    SameButIdx r.pollPattern ({ r with idx := v } : Regs c).pollPattern := by
  have hfires : ({ r with idx := v } : Regs c).firePat = r.firePat := rfl
  simp only [Regs.pollPattern, hfires]
  split
  · exact patternAction_sameButIdx { r with patLatch := true } v
  · split <;> exact ⟨v, rfl⟩

/-- A poll reads it in its pattern debouncer only (R121, R124). -/
theorem poll_sameButIdx (r : Regs c) (v : BitVec c.iw) : SameButIdx r.poll ({ r with idx := v } : Regs c).poll := by
  have hfires : ({ r with idx := v } : Regs c).fireSpd = r.fireSpd := rfl
  simp only [Regs.poll, hfires]
  split
  · exact ⟨v, rfl⟩
  · split
    · exact pollPattern_sameButIdx r v
    · exact pollPattern_sameButIdx { r with spdLatch := false } v

/-- DELAY does not read the pattern index (R145). -/
theorem delayRule_sameButIdx (s : State) (v : BitVec s.cfg.iw) :
    SameButIdx s.delayRule ({ s with regs := { s.regs with idx := v } } : State).delayRule := by
  have hruns : ({ s.regs with idx := v } : Regs s.cfg).tickRuns = s.regs.tickRuns := rfl
  have hlast : ({ s.regs with idx := v } : Regs s.cfg).lastTick = s.regs.lastTick := rfl
  simp only [State.delayRule, hruns, hlast]
  split
  · exact ⟨v, rfl⟩
  · split <;> exact ⟨v, rfl⟩

/-- PASS_END does not read the pattern index (R147). -/
theorem passEndRule_sameButIdx (s : State) (v : BitVec s.cfg.iw) :
    SameButIdx s.passEndRule ({ s with regs := { s.regs with idx := v } } : State).passEndRule := by
  have hfollows : ({ s.regs with idx := v } : Regs s.cfg).reverseFollows = s.regs.reverseFollows := rfl
  simp only [State.passEndRule, hfollows]
  split <;> exact ⟨v, rfl⟩

/-- An operation other than FWD_INIT reads the pattern index for nothing but the next pattern index (R27). -/
theorem execRegs_sameButIdx (h : i ≠ .fwdInit) (s : State) (v : BitVec s.cfg.iw) :
    SameButIdx (execRegs i s) (execRegs i { s with regs := { s.regs with idx := v } }) := by
  have hpoll := poll_sameButIdx s.regs v
  cases i with
  | fwdInit => exact absurd rfl h
  | poll1 => exact hpoll.map (fun r => ({ r with S := encode .poll2 } : Regs s.cfg).synchronise s.portIn) fun _ _ => rfl
  | poll2 => exact hpoll.map (fun r => r.loadDelayCounter.synchronise s.portIn) fun _ _ => rfl
  | poll3 =>
    exact hpoll.map (fun r => ({ r with i := s.regs.nextOffset, S := encode .check } : Regs s.cfg).synchronise s.portIn)
      fun _ _ => rfl
  | delay => exact (delayRule_sameButIdx s v).map (·.synchronise s.portIn) fun _ _ => rfl
  | passEnd => exact (passEndRule_sameButIdx s v).map (·.synchronise s.portIn) fun _ _ => rfl
  | reservedD | reservedE | reservedF => exact ⟨_, rfl⟩
  | _ => exact ⟨v, rfl⟩

/-- Settles O39: no output reads the pattern index, and no operation but FWD_INIT carries it elsewhere. -/
theorem indexTakesEffectAtFwdInitOnly : Obligations.IndexTakesEffectAtFwdInitOnly := by
  intro s i v hi
  obtain ⟨w, hw⟩ := execRegs_sameButIdx hi s v
  exact ⟨rfl, _, _, exec_eq i s, exec_eq i { s with regs := { s.regs with idx := v } }, by rw [hw]⟩

end Sys2Proof.Proofs
end

section
/-! PROOFS. What a run looks like from outside: the operations it makes, the registers they leave alone, and what the
observer of R108 records of the serial line; the loads' reading of the store. -/

namespace Sys2Proof.Proofs

open Sys2Proof.Machine Sys2Proof.Laws

variable {c : Config} {s : State} {i : Instr}

/-! ## What the loads read of the store -/

/-- Settles O20: LOAD_A samples at `a_first` and LOAD_B at `a_second`, which the port carries in their own cycles. -/
theorem onlyTheLoadsReadTheStore : Obligations.OnlyTheLoadsReadTheStore := by
  intro s i m hload
  have hsame : execRegs i { s with store := m } = execRegs i s := by
    refine execRegs_withStore i s m (fun hA => ?_) (fun hB => ?_)
    · obtain ⟨hS, hbyte⟩ := hload (.inl hA)
      have hport : s.outputs.memAddr = (s.regs.aFirst.setWidth s.cfg.addrW).toNat := by
        simp [State.outputs, Regs.memAddr, hS, hA, encode]
      rwa [hport] at hbyte
    · obtain ⟨hS, hbyte⟩ := hload (.inr hB)
      have hport : s.outputs.memAddr = (s.regs.aSecond.setWidth s.cfg.addrW).toNat := by
        simp [State.outputs, Regs.memAddr, hS, hB]
      rwa [hport] at hbyte
  exact ⟨execRegs i s, exec_eq i s, (exec_eq i { s with store := m }).trans (by rw [hsame])⟩

/-! ## Codes and operations -/

/-- The operation of a cycle is the one whose code is in `S` (R71). -/
theorem currentInstr_eq_iff : s.currentInstr = i ↔ s.regs.S = encode i := by
  have hcodes : ∀ w i, decodeCode w = i ↔ w = encode i := by
    intro w i; revert w; cases i <;> decide
  exact hcodes _ _

/-! ## Runs, cut into parts -/

theorem trace_one (hc : s.cfg.wf = true) : trace 1 s = [s.currentInstr] := by simp [trace, step_eq hc]

theorem trace_split (hc : s.cfg.wf = true) (n m : Nat) : trace (n + m) s = trace n s ++ trace m (stateAfter s n) :=
  trace_add (cycles_eq hc n) m

theorem trace_succ (hc : s.cfg.wf = true) (n : Nat) :
    trace (n + 1) s = trace n s ++ [(stateAfter s n).currentInstr] := by
  rw [trace_split hc, trace_one (s := stateAfter s n) hc]

/-- The operation of a cycle of a run is in its trace. -/
theorem currentInstr_mem_trace (hc : s.cfg.wf = true) {n j : Nat} (hj : j < n) :
    (stateAfter s j).currentInstr ∈ trace n s := by
  rw [trace_eq hc]
  exact List.mem_map_of_mem (List.mem_range.2 hj)

/-- The registers after one more cycle without a reset, by the operation of that cycle. -/
theorem regsAfter_succ_noReset {n : Nat} (hr : (s.portInAt n).rst = false) :
    regsAfter s (n + 1) = execRegs (stateAfter s n).currentInstr (stateAfter s n) :=
  regsAfter_succ_of hr rfl

theorem sameScan_refl (r : Regs c) : SameScan r r := ⟨rfl, rfl, rfl, rfl⟩

theorem sameScan_trans {r r' r'' : Regs c} (h : SameScan r r') (h' : SameScan r' r'') : SameScan r r'' := by
  obtain ⟨hd, hi, hs, hl⟩ := h
  obtain ⟨hd', hi', hs', hl'⟩ := h'
  exact ⟨hd'.trans hd, hi'.trans hi, hs'.trans hs, hl'.trans hl⟩

/-- The addresses of the pair follow from direction and offset (R51). -/
theorem pair_congr {r r' : Regs c} (h : SameScan r r') : r'.aFirst = r.aFirst ∧ r'.aSecond = r.aSecond := by
  obtain ⟨hd, hi, _, _⟩ := h
  simp [Regs.aFirst, Regs.aSecond, hd, hi]

/-- A run of CHECK and of operations of a step before its POLL3 leaves direction, offset and latched entry alone. -/
theorem regsAfter_sameScan (hc : s.cfg.wf = true) {n : Nat} (hn : NoReset s n)
    (ht : ∀ i ∈ trace n s, i = .check ∨ InStep (encode i) ∧ i ≠ .poll3) : SameScan s.regs (regsAfter s n) := by
  induction n with
  | zero => exact sameScan_refl _
  | succ n ih =>
    rw [trace_succ hc] at ht
    have hbefore := ih (noReset_mono hn n.le_succ) fun i hi => ht i (List.mem_append_left _ hi)
    rw [regsAfter_succ_noReset (hn n n.lt_succ_self)]
    exact sameScan_trans hbefore (execRegs_sameScan (s := stateAfter s n) (ht _ (by simp)))

/-! ## One cycle of the observer -/

/-- Outside SHIFT_HI and LATCH both lines are low (R38). -/
theorem lines_low (h5 : s.regs.S ≠ 0x5#4) (h6 : s.regs.S ≠ 0x6#4) :
    s.outputs.serClk = false ∧ s.outputs.latch = false := by
  simp only [← Bool.not_eq_true, serClk_iff, latch_iff]
  exact ⟨h5, h6⟩

/-- A cycle with both lines low records nothing (R108). -/
theorem sample_low {o : Observer} {x : Outputs} (h : x.serClk = false ∧ x.latch = false) :
    o.sample x = { o with serClk := false, latch := false } := by
  simp [Observer.sample, h]

/-- A rising `ser_clk` records the bit on the line (R108). -/
theorem sample_bit {o : Observer} {x : Outputs} (ho : o.serClk = false) (hk : x.serClk = true) (hl : x.latch = false) :
    o.sample x = { o with serClk := true, latch := false, bits := o.bits ++ [x.serData] } := by
  simp [Observer.sample, ho, hk, hl]

/-- A rising `latch` reports a frame (R108). -/
theorem sample_latch {o : Observer} {x : Outputs} (ho : o.latch = false) (hk : x.serClk = false) (hl : x.latch = true) :
    o.sample x = ⟨false, true, o.bits, o.frames ++ (frameOf o.bits).toList⟩ := by
  simp [Observer.sample, ho, hk, hl]

/-! ## The frame of two bytes -/

/-- The bits of a byte in the order R105 sends them, the first `n` of them. -/
def sentBits (b : Byte) (n : Nat) : List Bool := (List.range n).map b.getLsbD

@[simp] theorem sentBits_length (b : Byte) (n : Nat) : (sentBits b n).length = n := by simp [sentBits]

theorem sentBits_succ (b : Byte) (n : Nat) : sentBits b (n + 1) = sentBits b n ++ [b.getLsbD n] := by
  simp [sentBits, List.range_succ]

/-- A bit recorded last is the most significant (R108). -/
theorem bitsValue_concat (qs : List Bool) (q : Bool) :
    bitsValue (qs ++ [q]) = bitsValue qs + 2 ^ qs.length * q.toNat := by
  induction qs with
  | nil => simp [bitsValue]
  | cons p ps ih => simp only [List.cons_append, bitsValue, ih, List.length_cons, pow_succ]; ring

/-- The first `n` bits sent are the byte's value modulo `2^n`. -/
theorem bitsValue_sentBits (b : Byte) (n : Nat) : bitsValue (sentBits b n) = b.toNat % 2 ^ n := by
  induction n with
  | zero => simp [sentBits, bitsValue, Nat.mod_one]
  | succ n ih =>
    rw [sentBits_succ, bitsValue_concat, ih, sentBits_length, BitVec.getLsbD, Nat.toNat_testBit, Nat.mod_pow_succ]

/-- All eight bits of a byte are the byte. -/
theorem ofNat_bitsValue_sentBits (b : Byte) : BitVec.ofNat 8 (bitsValue (sentBits b 8)) = b := by
  rw [bitsValue_sentBits, Nat.mod_eq_of_lt b.isLt, BitVec.ofNat_toNat, BitVec.setWidth_eq]

/-- The frame of the last two bytes sent is the two bytes, whatever bits came before (R108). -/
theorem frameOf_sentBits (bits : List Bool) (a b : Byte) :
    frameOf (bits ++ sentBits a 8 ++ sentBits b 8) = some (a, b) := by
  have hlong : 16 ≤ (bits ++ sentBits a 8 ++ sentBits b 8).length := by simp
  have hlast : (bits ++ sentBits a 8 ++ sentBits b 8).drop ((bits ++ sentBits a 8 ++ sentBits b 8).length - 16) =
      sentBits a 8 ++ sentBits b 8 := by
    rw [List.append_assoc, List.drop_append_of_le_length (by simp)]
    simp
  have hfirst : (sentBits a 8 ++ sentBits b 8).take 8 = sentBits a 8 := List.take_left' (sentBits_length a 8)
  have hsecond : (sentBits a 8 ++ sentBits b 8).drop 8 = sentBits b 8 := List.drop_left' (sentBits_length a 8)
  simp only [frameOf, if_pos hlong, hlast, hfirst, hsecond, ofNat_bitsValue_sentBits]

/-! ## The observer of a run -/

/-- The observer after it has seen `n` cycles of a run (R108). -/
def watch (o : Observer) (s : State) (n : Nat) : Observer := (observe n s).foldl Observer.sample o

@[simp] theorem watch_zero (o : Observer) (s : State) : watch o s 0 = o := rfl

theorem watch_succ (hc : s.cfg.wf = true) (o : Observer) (n : Nat) :
    watch o s (n + 1) = (watch o s n).sample (stateAfter s n).outputs := by
  simp [watch, observe_eq hc, List.range_succ]

theorem watch_split (hc : s.cfg.wf = true) (o : Observer) (n m : Nat) :
    watch o s (n + m) = watch (watch o s n) (stateAfter s n) m := by
  rw [watch, observe_add (cycles_eq hc n), List.foldl_append]
  rfl

/-- A run without SHIFT_HI and LATCH records nothing. -/
theorem watch_idle (hc : s.cfg.wf = true) (o : Observer) {n : Nat}
    (ht : ∀ i ∈ trace (n + 1) s, i ≠ .shiftHi ∧ i ≠ .latch) :
    watch o s (n + 1) = { o with serClk := false, latch := false } := by
  have hlow : ∀ j < n + 1, (stateAfter s j).outputs.serClk = false ∧ (stateAfter s j).outputs.latch = false := by
    intro j hj
    obtain ⟨h5, h6⟩ := ht _ (currentInstr_mem_trace hc hj)
    exact lines_low (fun hS => h5 (currentInstr_eq_iff.2 hS)) (fun hS => h6 (currentInstr_eq_iff.2 hS))
  clear ht
  induction n with
  | zero => rw [watch_succ hc, watch_zero, sample_low (hlow 0 (by omega))]
  | succ n ih =>
    rw [watch_succ hc, ih fun j hj => hlow j (by omega), sample_low (hlow (n + 1) (by omega))]

/-! ## The sending of one byte -/

/-- Both lines are low while a byte is loaded. -/
theorem loads_lines_low {b : Byte} (h : Loads s b) : s.outputs.serClk = false ∧ s.outputs.latch = false := by
  rcases h with ⟨hS, _⟩ | ⟨hS, _⟩ <;> exact lines_low (by simp [hS]) (by simp [hS])

/-- What the observer has recorded after `m` bits of a loaded byte. -/
theorem watch_bits (hc : s.cfg.wf = true) (hn : NoReset s 17) {b : Byte} (h : Loads s b) (o : Observer) {m : Nat}
    (hm : m ≤ 8) :
    watch o s (2 * m + 1) = ⟨decide (m ≠ 0), false, o.bits ++ sentBits b m, o.frames⟩ := by
  induction m with
  | zero =>
    rw [watch_succ hc]
    exact (sample_low (loads_lines_low h)).trans (by simp [sentBits])
  | succ m ih =>
    obtain ⟨hlo, hhi⟩ := loads_bitOnLine hn h (j := m) (by omega)
    have hlow := lines_low (s := stateAfter s (2 * m + 1)) (by simp [hlo.code]) (by simp [hlo.code])
    have hclk : (stateAfter s (2 * m + 2)).outputs.serClk = true := serClk_iff.2 hhi.code
    have hlatch : (stateAfter s (2 * m + 2)).outputs.latch = false :=
      Bool.eq_false_iff.2 (by simp [latch_iff, hhi.code])
    have hbit := serData_of_bitOnLine (s := stateAfter s (2 * m + 2)) hhi
    rw [show 2 * (m + 1) + 1 = 2 * m + 1 + 1 + 1 by omega, watch_succ hc, watch_succ hc, ih (by omega), sample_low hlow,
      sample_bit rfl hclk hlatch, hbit, sentBits_succ]
    simp

/-- The operations of a byte: its load and eight times SHIFT_LO, SHIFT_HI (R78). -/
theorem trace_byte (hc : s.cfg.wf = true) (hn : NoReset s 17) {b : Byte} (h : Loads s b) :
    trace 17 s = s.currentInstr :: byteTrace := by
  have hbits : ∀ m ≤ 8, trace (1 + 2 * m) s =
      s.currentInstr :: (List.replicate m [Instr.shiftLo, Instr.shiftHi]).flatten := by
    intro m hm
    induction m with
    | zero => exact trace_one hc
    | succ m ih =>
      obtain ⟨hlo, hhi⟩ := loads_bitOnLine hn h (j := m) (by omega)
      have hlo' : (stateAfter s (2 * m + 1)).currentInstr = .shiftLo := currentInstr_eq_iff.2 hlo.code
      have hhi' : (stateAfter s (2 * m + 2)).currentInstr = .shiftHi := currentInstr_eq_iff.2 hhi.code
      rw [show 1 + 2 * (m + 1) = 1 + 2 * m + 1 + 1 by omega, trace_succ hc, trace_succ hc, ih (by omega),
        show 1 + 2 * m = 2 * m + 1 by omega, hlo', hhi', List.replicate_succ', List.flatten_append]
      simp
  exact hbits 8 le_rfl

/-- After LOAD_A's byte comes LOAD_B, after LOAD_B's byte LATCH (R103). -/
theorem byte_next (hn : NoReset s 17) {b : Byte} (h : Loads s b) :
    (regsAfter s 17).S = if s.regs.S = 0x3#4 then 0x6#4 else 0x3#4 := by
  have hhi := (loads_bitOnLine hn h (j := 7) (by omega)).2
  rw [regsAfter_succ_of (hn 16 (by omega)) hhi.code]
  exact (shiftHi_lastBit (s := stateAfter s 16) hhi).1.trans (by simp)

/-! ## The sending of a pair -/

/-- From LOAD_A, cycle 17 is LOAD_B's and reads the second byte of the same pair (R106). -/
theorem loads_second (hc : s.cfg.wf = true) (hn : NoReset s 17) (hS : s.regs.S = 0x2#4) :
    (regsAfter s 17).S = 0x3#4 ∧ Loads (stateAfter s 17) (s.memRead s.regs.aSecond) := by
  have hload : Loads s (s.memRead s.regs.aFirst) := .inl ⟨hS, rfl⟩
  have hnext : (regsAfter s 17).S = 0x3#4 := by simpa [hS] using byte_next hn hload
  have hscan : SameScan s.regs (regsAfter s 17) := by
    refine regsAfter_sameScan hc hn ?_
    rw [trace_byte hc hn hload, currentInstr_eq_iff (i := .loadA).2 hS]
    simp only [InStep]
    decide
  exact ⟨hnext, .inr ⟨hnext, by simp [(pair_congr hscan).2]⟩⟩

/-- From LOAD_A, cycle 34 is LATCH's (R106). -/
theorem pair_latch (hc : s.cfg.wf = true) (hn : NoReset s 34) (hS : s.regs.S = 0x2#4) :
    (regsAfter s 34).S = 0x6#4 := by
  obtain ⟨hB, hload⟩ := loads_second hc (noReset_mono hn (by omega)) hS
  have hnext := byte_next (s := stateAfter s 17) (noReset_stateAfter hn (by omega)) hload
  rw [regsAfter_add] at hnext
  simpa [hB] using hnext

/-- The 35 cycles from LOAD_A to LATCH record the bits of both bytes and report their frame, whatever the observer saw
before (R106). -/
theorem watch_pair (hc : s.cfg.wf = true) (hn : NoReset s 34) (hS : s.regs.S = 0x2#4) (o : Observer) :
    watch o s 35 = ⟨false, true,
      o.bits ++ sentBits (s.memRead s.regs.aFirst) 8 ++ sentBits (s.memRead s.regs.aSecond) 8,
      o.frames ++ [(s.memRead s.regs.aFirst, s.memRead s.regs.aSecond)]⟩ := by
  have hn17 := noReset_mono hn (show 17 ≤ 34 by omega)
  have hfirst := watch_bits hc hn17 (.inl ⟨hS, rfl⟩) o (m := 8) le_rfl
  obtain ⟨_, hload⟩ := loads_second hc hn17 hS
  have hsecond := watch_bits (s := stateAfter s 17) hc (noReset_stateAfter hn (by omega)) hload (watch o s 17) (m := 8)
    le_rfl
  have hlatch := pair_latch hc hn hS
  have hclk : (stateAfter s 34).outputs.serClk = false := Bool.eq_false_iff.2 (by simp [serClk_iff, hlatch])
  rw [watch_succ hc, watch_split hc o 17 17, hsecond, hfirst, sample_latch rfl hclk (latch_iff.2 hlatch),
    frameOf_sentBits]
  rfl

/-- Settles O14: two bytes of seventeen cycles each, then the latch. -/
theorem pairBecomesOneFrame : Obligations.PairBecomesOneFrame := by
  intro s hc hn hS
  refine ⟨⟨_, cycles_eq hc 17, (loads_second hc (noReset_mono hn (by omega)) hS).1⟩,
    ⟨_, cycles_eq hc 34, pair_latch hc hn hS⟩, fun o _ _ => ?_⟩
  have hpair := watch_pair hc hn hS o
  rw [watch] at hpair
  rw [hpair]
  exact ⟨by simp, rfl⟩

end Sys2Proof.Proofs
end

section
/-! PROOFS. One STEP of a pass, whatever the buttons do: its operations, the delay in it, the pair it shows, and the
switch request it leaves. -/

namespace Sys2Proof.Proofs

open Sys2Proof.Machine Sys2Proof.Laws

variable {c : Config} {s : State} {i : Instr}

/-! ## Runs under the invariants -/

/-- A run keeps the invariants. -/
theorem inv_stateAfter (h : Inv s) (n : Nat) : Inv (stateAfter s n) :=
  cycles_induct step_keeps_inv h (cycles_eq h.config n)

/-- The trace of the rest of a run is the rest of its trace. -/
theorem trace_stateAfter (hc : s.cfg.wf = true) (n m : Nat) : trace m (stateAfter s n) = (trace (n + m) s).drop n := by
  have hlen : (trace n s).length = n := by simp [trace_eq hc]
  rw [trace_split hc, List.drop_left' hlen]

/-! ## The delay counter -/

/-- The cycles of DELAY that follow this one (R145). -/
def delayLeft (r : Regs c) : Nat := (r.ticks.toNat - 1) * c.tickCycles + r.pre.toNat

/-- DELAY while the tick has more cycles (R145). -/
theorem execRegs_delay_tickRuns (h : s.regs.pre ≠ 0) :
    execRegs .delay s = ({ s.regs with pre := s.regs.pre - 1 } : Regs s.cfg).synchronise s.portIn := by
  have hrun : s.regs.tickRuns = true := by simpa [Regs.tickRuns] using h
  simp [execRegs, State.delayRule, hrun]

/-- DELAY at the end of a tick that is not the last (R145). -/
theorem execRegs_delay_nextTick (h : s.regs.pre = 0) (ht : 1 < s.regs.ticks.toNat) :
    execRegs .delay s =
      ({ s.regs with ticks := s.regs.ticks - 1, pre := tickReload s.cfg } : Regs s.cfg).synchronise s.portIn := by
  have hrun : s.regs.tickRuns = false := by simpa [Regs.tickRuns] using h
  have hlast : s.regs.lastTick = false := by simpa [Regs.lastTick] using ht
  simp [execRegs, State.delayRule, hrun, hlast]

/-- DELAY at the end of the last tick (R145). -/
theorem execRegs_delay_lastTick (h : s.regs.pre = 0) (ht : s.regs.ticks.toNat ≤ 1) :
    execRegs .delay s = ({ s.regs with S := encode .poll3 } : Regs s.cfg).synchronise s.portIn := by
  have hrun : s.regs.tickRuns = false := by simpa [Regs.tickRuns] using h
  have hlast : s.regs.lastTick = true := by simpa [Regs.lastTick] using ht
  simp [execRegs, State.delayRule, hrun, hlast]

/-- The last cycle of DELAY leads to POLL3. -/
theorem delay_last (hc : WellFormedConfig s.cfg) (h : delayLeft s.regs = 0) : (execRegs .delay s).S = 0xA#4 := by
  obtain ⟨hticks, hpre⟩ := Nat.add_eq_zero_iff.1 h
  have hone : s.regs.ticks.toNat - 1 = 0 := (Nat.mul_eq_zero.1 hticks).resolve_right (by have := hc.tick.1; omega)
  rw [execRegs_delay_lastTick (BitVec.eq_of_toNat_eq (by simpa using hpre)) (by omega)]
  rfl

/-- Every other cycle of DELAY leads to DELAY with one cycle less to run. -/
theorem delay_counts {m : Nat} (hc : WellFormedConfig s.cfg) (hS : s.regs.S = 0x9#4) (h : delayLeft s.regs = m + 1) :
    (execRegs .delay s).S = 0x9#4 ∧ delayLeft (execRegs .delay s) = m := by
  by_cases hpre : s.regs.pre = 0
  · have hzero : s.regs.pre.toNat = 0 := by simp [hpre]
    obtain ⟨t, ht⟩ : ∃ t, s.regs.ticks.toNat = t + 2 := by
      refine ⟨s.regs.ticks.toNat - 2, ?_⟩
      by_contra hle
      have hlast : s.regs.ticks.toNat - 1 = 0 := by omega
      simp [delayLeft, hzero, hlast] at h
    have hsub := toNat_sub_one_of_ne_zero (x := s.regs.ticks) (by rintro h0; simp [h0] at ht)
    have htick := hc.tick.1
    rw [execRegs_delay_nextTick hpre (by omega)]
    refine ⟨hS, ?_⟩
    simp only [delayLeft, Regs.synchronise_ticks, Regs.synchronise_pre, hsub, tickReload_toNat, hzero, ht] at h ⊢
    rw [show t + 2 - 1 = t + 1 by omega, Nat.succ_mul] at h
    rw [show t + 2 - 1 - 1 = t by omega]
    omega
  · have hpos : s.regs.pre.toNat ≠ 0 := fun h0 => hpre (BitVec.eq_of_toNat_eq (by simpa using h0))
    have hsub := toNat_sub_one_of_ne_zero hpre
    rw [execRegs_delay_tickRuns hpre]
    refine ⟨hS, ?_⟩
    simp only [delayLeft, Regs.synchronise_ticks, Regs.synchronise_pre, hsub] at h ⊢
    omega

/-- The delay as long as it runs. -/
theorem regsAfter_delay (hc : s.cfg.wf = true) (hS : s.regs.S = 0x9#4) (hn : NoReset s (delayLeft s.regs + 1)) {j : Nat}
    (hj : j ≤ delayLeft s.regs) :
    (regsAfter s j).S = 0x9#4 ∧ delayLeft (regsAfter s j) = delayLeft s.regs - j := by
  induction j with
  | zero => exact ⟨hS, rfl⟩
  | succ j ih =>
    obtain ⟨hcode, hleft⟩ := ih (by omega)
    rw [regsAfter_succ_of (hn j (by omega)) hcode]
    exact delay_counts (s := stateAfter s j) ((wf_iff _).1 hc) hcode (hleft.trans (by omega))

/-- The whole delay: DELAY in each of its cycles, then POLL3 (R145). -/
theorem delay_runs (hc : s.cfg.wf = true) (hS : s.regs.S = 0x9#4) {n : Nat} (hleft : delayLeft s.regs + 1 = n)
    (hn : NoReset s n) : trace n s = List.replicate n .delay ∧ (regsAfter s n).S = 0xA#4 := by
  subst hleft
  constructor
  · rw [trace_eq hc, List.eq_replicate_iff]
    refine ⟨by simp, fun i hi => ?_⟩
    obtain ⟨j, hj, rfl⟩ := List.mem_map.1 hi
    exact currentInstr_eq_iff.2 (regsAfter_delay hc hS hn (Nat.le_of_lt_succ (List.mem_range.1 hj))).1
  · obtain ⟨hcode, hleft⟩ := regsAfter_delay hc hS hn le_rfl
    rw [regsAfter_succ_of (hn _ (by omega)) hcode]
    exact delay_last (s := stateAfter s _) ((wf_iff _).1 hc) (hleft.trans (by omega))

/-- A counter that POLL2 has just loaded runs for `ticks * TICK_CYCLES` cycles (R144, R145). -/
theorem delayLeft_of_loaded (hc : WellFormedConfig c) {r : Regs c} (ht : 1 ≤ r.ticks.toNat)
    (hp : r.pre = tickReload c) : delayLeft r + 1 = r.ticks.toNat * c.tickCycles := by
  obtain ⟨t, ht⟩ : ∃ t, r.ticks.toNat = t + 1 := ⟨_, (Nat.sub_add_cancel ht).symm⟩
  have htick := hc.tick.1
  rw [delayLeft, hp, tickReload_toNat, ht, Nat.succ_mul, Nat.add_sub_cancel]
  omega

/-! ## The operations of a step -/

/-- `STEP` before its POLL3 (R82). -/
def stepTraceToPoll3 (n : Nat) : List Instr :=
  [.check, .loadA] ++ byteTrace ++ [.loadB] ++ byteTrace ++ [.latch, .poll1, .poll2] ++ List.replicate n .delay

theorem stepTrace_eq (n : Nat) : stepTrace n = stepTraceToPoll3 n ++ [.poll3] := rfl

theorem mem_stepTraceToPoll3 {n : Nat} (h : i ∈ stepTraceToPoll3 n) : i = .check ∨ InStep (encode i) ∧ i ≠ .poll3 := by
  have hfixed : ∀ i ∈ stepTraceToPoll3 0, i = .check ∨ InStep (encode i) ∧ i ≠ .poll3 := by
    simp only [InStep]; decide
  rcases List.mem_append.1 h with h | h
  · exact hfixed i (List.mem_append_left _ h)
  · obtain rfl := List.eq_of_mem_replicate h
    simp [InStep, encode]

theorem mem_stepTrace {n : Nat} (h : i ∈ stepTrace n) : i = .check ∨ InStep (encode i) := by
  rcases List.mem_append.1 h with h | h
  · exact (mem_stepTraceToPoll3 h).imp id And.left
  · obtain rfl := List.mem_singleton.1 h
    simp [InStep, encode]

/-- A CHECK that goes on leads to LOAD_A of the same pair (R142). -/
theorem check_goes (hn : NoReset s 1) (hS : s.regs.S = 0x1#4) (hgo : s.regs.go = true) :
    (regsAfter s 1).S = 0x2#4 ∧ SameScan s.regs (regsAfter s 1) := by
  rw [regsAfter_succ_of (n := 0) (hn 0 (by omega)) hS]
  exact ⟨by simp [decodeCode, execRegs, State.checkRule, hgo, encode], execRegs_sameScan (.inl rfl)⟩

/-- The operations of a pair before its LATCH. -/
theorem trace_pair (hc : s.cfg.wf = true) (hn : NoReset s 34) (hS : s.regs.S = 0x2#4) :
    trace 34 s = [.loadA] ++ byteTrace ++ [.loadB] ++ byteTrace := by
  have hn17 := noReset_mono hn (show 17 ≤ 34 by omega)
  obtain ⟨hB, hload⟩ := loads_second hc hn17 hS
  have hfirst := trace_byte hc hn17 (.inl ⟨hS, rfl⟩)
  have hsecond := trace_byte (s := stateAfter s 17) hc (noReset_stateAfter hn (by omega)) hload
  have hA : s.currentInstr = .loadA := currentInstr_eq_iff.2 hS
  have hB' : (stateAfter s 17).currentInstr = .loadB := currentInstr_eq_iff.2 hB
  rw [trace_split hc 17 17, hfirst, hsecond, hA, hB']
  rfl

/-- From LATCH, two polls load the delay counter (R143, R144). -/
theorem latch_polls (hc : s.cfg.wf = true) (hn : NoReset s 3) (hS : s.regs.S = 0x6#4) :
    trace 3 s = [.latch, .poll1, .poll2] ∧ (regsAfter s 3).S = 0x9#4 ∧
      (regsAfter s 3).ticks = (regsAfter s 3).delay ∧ (regsAfter s 3).pre = tickReload s.cfg := by
  have h7 : (regsAfter s 1).S = 0x7#4 := by rw [regsAfter_succ_of (n := 0) (hn 0 (by omega)) hS]; rfl
  have h8 : (regsAfter s 2).S = 0x8#4 := by rw [regsAfter_succ_of (hn 1 (by omega)) h7]; rfl
  have h9 : regsAfter s 3 = execRegs .poll2 (stateAfter s 2) := regsAfter_succ_of (hn 2 (by omega)) h8
  have hlatch : s.currentInstr = .latch := currentInstr_eq_iff.2 hS
  have hpoll1 : (stateAfter s 1).currentInstr = .poll1 := currentInstr_eq_iff.2 h7
  have hpoll2 : (stateAfter s 2).currentInstr = .poll2 := currentInstr_eq_iff.2 h8
  refine ⟨?_, by rw [h9]; exact ⟨rfl, rfl, rfl⟩⟩
  rw [trace_succ hc, trace_succ hc, trace_one hc, hlatch, hpoll1, hpoll2]
  rfl

/-- From a CHECK that goes on, cycle 38 is the delay's first, its counter loaded with the level the second poll left. -/
theorem check_toDelay (hc : s.cfg.wf = true) (hn : NoReset s 38) (hS : s.regs.S = 0x1#4) (hgo : s.regs.go = true) :
    trace 38 s = stepTraceToPoll3 0 ∧ (regsAfter s 38).S = 0x9#4 ∧
      (regsAfter s 38).ticks = (regsAfter s 38).delay ∧ (regsAfter s 38).pre = tickReload s.cfg := by
  have hA := (check_goes (noReset_mono hn (by omega)) hS hgo).1
  have hn1 : NoReset (stateAfter s 1) 34 := noReset_stateAfter hn (by omega)
  have hlatch := pair_latch (s := stateAfter s 1) hc hn1 hA
  rw [regsAfter_add] at hlatch
  have hpair := trace_pair (s := stateAfter s 1) hc hn1 hA
  have hpolls := latch_polls (s := stateAfter s 35) hc (noReset_stateAfter hn (by omega)) hlatch
  rw [regsAfter_add] at hpolls
  obtain ⟨hops, hloaded⟩ := hpolls
  have hcheck : s.currentInstr = .check := currentInstr_eq_iff.2 hS
  refine ⟨?_, hloaded⟩
  rw [trace_split hc 35 3, trace_split hc 1 34, trace_one hc, hpair, hops, hcheck]
  rfl

/-! ## One step -/

/-- Direction and latched entry are unchanged. -/
def SameEntry (r r' : Regs c) : Prop := r'.dir = r.dir ∧ r'.eStart = r.eStart ∧ r'.eLen = r.eLen

theorem SameEntry.trans {r r' r'' : Regs c} (h : SameEntry r r') (h' : SameEntry r' r'') : SameEntry r r'' := by
  obtain ⟨hd, hs, hl⟩ := h
  obtain ⟨hd', hs', hl'⟩ := h'
  exact ⟨hd'.trans hd, hs'.trans hs, hl'.trans hl⟩

theorem sameEntry_of_sameScan {r r' : Regs c} (h : SameScan r r') : SameEntry r r' := by
  obtain ⟨hd, _, hs, hl⟩ := h
  exact ⟨hd, hs, hl⟩

/-- The cycles of one step with the delay level `d` (R153). -/
def stepLength (c : Config) (d : Nat) : Nat := 39 + d * c.tickCycles

/-- One `STEP` with the delay level `d` runs from `s`, and shows the pair of `s` (R82, R153). -/
structure StepRun (s : State) (d : Nat) : Prop where
  /-- The delay is a level. -/
  level      : isLevel s.cfg d
  /-- Cycle 38 is the delay's first, its counter loaded with `d`. -/
  loaded     : (regsAfter s 38).S = 0x9#4 ∧ (regsAfter s 38).ticks.toNat = d
  /-- The trace is `STEP`. -/
  operations : trace (stepLength s.cfg d) s = stepTrace (d * s.cfg.tickCycles)
  /-- The step comes back to CHECK. -/
  code       : (regsAfter s (stepLength s.cfg d)).S = 0x1#4
  /-- It moves on to the next pair. -/
  offset     : (regsAfter s (stepLength s.cfg d)).i = s.regs.nextOffset
  /-- It keeps direction and entry. -/
  entry      : SameEntry s.regs (regsAfter s (stepLength s.cfg d))
  /-- It adds its one frame to what an observer reported before. -/
  shown      : ∀ o : Observer, (watch o s (stepLength s.cfg d)).frames =
    o.frames ++ [(s.memRead s.regs.aFirst, s.memRead s.regs.aSecond)]

/-- A level is at least `DELAY_BASE`, so at least 1. -/
theorem isLevel_pos (hc : WellFormedConfig c) {d : Nat} (h : isLevel c d) : 1 ≤ d := by
  obtain ⟨m, rfl, _⟩ := h
  exact hc.delay.1.trans (Nat.le_add_right _ _)

/-- A level's delay is shorter than one of `DELAY_WRAP` ticks. -/
theorem stepLength_le {d : Nat} (h : isLevel c d) : stepLength c d ≤ 39 + c.delayWrap * c.tickCycles := by
  obtain ⟨_, _, hlt⟩ := h
  exact Nat.add_le_add_left (Nat.mul_le_mul_right _ hlt.le) 39

/-- A CHECK that goes on reaches the POLL3 of its step. -/
theorem check_toPoll3 (h : Inv s) (hS : s.regs.S = 0x1#4) (hgo : s.regs.go = true)
    (hn : NoReset s (39 + s.cfg.delayWrap * s.cfg.tickCycles)) :
    ∃ d, isLevel s.cfg d ∧ ((regsAfter s 38).S = 0x9#4 ∧ (regsAfter s 38).ticks.toNat = d) ∧
      trace (38 + d * s.cfg.tickCycles) s = stepTraceToPoll3 (d * s.cfg.tickCycles) ∧
      (regsAfter s (38 + d * s.cfg.tickCycles)).S = 0xA#4 := by
  have hc := inv_config h
  obtain ⟨hops, hcode, hticks, hpre⟩ := check_toDelay h.config (noReset_mono hn (by omega)) hS hgo
  have hlevel : isLevel s.cfg (regsAfter s 38).ticks.toNat := by
    rw [hticks]
    exact (inv_stateAfter h 38).level
  have hlen := stepLength_le hlevel
  have hleft := delayLeft_of_loaded hc (isLevel_pos hc hlevel) hpre
  obtain ⟨hdelays, hlast⟩ := delay_runs (s := stateAfter s 38) h.config hcode hleft
    (noReset_stateAfter hn (by rw [stepLength] at hlen; omega))
  rw [regsAfter_add] at hlast
  refine ⟨_, hlevel, ⟨hcode, rfl⟩, ?_, hlast⟩
  rw [trace_split h.config, hops, hdelays]
  rfl

/-- The observer of a step: the pair's frame, and nothing in the cycles around its sending. -/
theorem watch_step (hc : s.cfg.wf = true) {n : Nat} (hn : NoReset s (39 + n)) (hS : s.regs.S = 0x1#4)
    (hgo : s.regs.go = true) (ht : trace (39 + n) s = stepTrace n) (o : Observer) :
    (watch o s (39 + n)).frames = o.frames ++ [(s.memRead s.regs.aFirst, s.memRead s.regs.aSecond)] := by
  obtain ⟨hA, hscan⟩ := check_goes (noReset_mono hn (by omega)) hS hgo
  obtain ⟨hfirst, hsecond⟩ := pair_congr hscan
  have hcheck : watch o s 1 = { o with serClk := false, latch := false } := by
    refine watch_idle hc o (n := 0) ?_
    have hop : s.currentInstr = .check := currentInstr_eq_iff.2 hS
    simp [trace_one hc, hop]
  have hpair := watch_pair (s := stateAfter s 1) hc (noReset_stateAfter hn (by omega)) hA (watch o s 1)
  have hrest : ∀ o : Observer, watch o (stateAfter s 36) (n + 2 + 1) = { o with serClk := false, latch := false } := by
    refine fun o => watch_idle (s := stateAfter s 36) hc o ?_
    have hafter : (stepTrace n).drop 36 = [.poll1, .poll2] ++ List.replicate n .delay ++ [.poll3] := rfl
    rw [trace_stateAfter hc, show 36 + (n + 2 + 1) = 39 + n by omega, ht, hafter]
    simp [List.mem_replicate, or_imp, forall_and]
  rw [show 39 + n = 1 + 35 + (n + 2 + 1) by omega, watch_split hc, watch_split hc, hrest, hpair, hcheck]
  simp [hfirst, hsecond]

/-- From a CHECK that goes on, one step runs (R153). -/
theorem stepRun_of_go (h : Inv s) (hS : s.regs.S = 0x1#4) (hgo : s.regs.go = true)
    (hn : NoReset s (39 + s.cfg.delayWrap * s.cfg.tickCycles)) : ∃ d, StepRun s d := by
  obtain ⟨d, hlevel, hloaded, hbefore, hcode⟩ := check_toPoll3 h hS hgo hn
  have hnd : NoReset s (39 + d * s.cfg.tickCycles) := noReset_mono hn (stepLength_le hlevel)
  have hscan : SameScan s.regs (regsAfter s (38 + d * s.cfg.tickCycles)) :=
    regsAfter_sameScan h.config (noReset_mono hnd (by omega)) (hbefore ▸ fun _ hi => mem_stepTraceToPoll3 hi)
  have hlen : stepLength s.cfg d = 38 + d * s.cfg.tickCycles + 1 := by rw [stepLength]; omega
  have hpoll3 : (stateAfter s (38 + d * s.cfg.tickCycles)).currentInstr = .poll3 := currentInstr_eq_iff.2 hcode
  have hregs : regsAfter s (stepLength s.cfg d) = execRegs .poll3 (stateAfter s (38 + d * s.cfg.tickCycles)) := by
    rw [hlen]
    exact regsAfter_succ_of (hnd _ (by omega)) hcode
  have hops : trace (stepLength s.cfg d) s = stepTrace (d * s.cfg.tickCycles) := by
    rw [hlen, trace_succ h.config, hbefore, hpoll3, stepTrace_eq]
  refine ⟨d, hlevel, hloaded, hops, by rw [hregs]; rfl, ?_, ?_, watch_step h.config hnd hS hgo hops⟩
  · rw [hregs]
    show (regsAfter s _).nextOffset = _
    obtain ⟨hd, hi, _, _⟩ := hscan
    simp [Regs.nextOffset, hd, hi]
  · have hlast : SameEntry (regsAfter s (38 + d * s.cfg.tickCycles))
        (execRegs .poll3 (stateAfter s (38 + d * s.cfg.tickCycles))) := by
      simp [SameEntry, execRegs, State.poll3Rule]
    rw [hregs]
    exact SameEntry.trans (sameEntry_of_sameScan hscan) hlast

/-! ## The switch request of a run -/

/-- The operations that poll (R143, R144, R146). -/
def IsPoll (i : Instr) : Prop := i = .poll1 ∨ i = .poll2 ∨ i = .poll3

theorem switchAt_iff (hc : s.cfg.wf = true) (j : Nat) :
    SwitchAt s j ↔ IsPoll (stateAfter s j).currentInstr ∧ RequestsSwitch (regsAfter s j) := by
  have hpoll : IsPoll (stateAfter s j).currentInstr ↔
      (regsAfter s j).S = 0x7#4 ∨ (regsAfter s j).S = 0x8#4 ∨ (regsAfter s j).S = 0xA#4 := by
    simp only [IsPoll, currentInstr_eq_iff]
    rfl
  rw [hpoll]
  constructor
  · rintro ⟨t, ht, hat⟩
    rw [cycles_eq hc] at ht
    obtain rfl := Host.Outcome.next.inj ht
    exact hat
  · exact fun hat => ⟨_, cycles_eq hc j, hat⟩

theorem switchAt_stateAfter (hc : s.cfg.wf = true) (n j : Nat) : SwitchAt (stateAfter s n) j ↔ SwitchAt s (n + j) := by
  unfold SwitchAt
  rw [cycles_add (cycles_eq hc n)]

/-- A poll leaves `sw` at 1 where it was, and where it requests a switch (R125). -/
theorem poll_sw_iff (r : Regs c) : r.poll.sw = true ↔ r.sw = true ∨ RequestsSwitch r := by
  have hp := poll_polled r
  unfold Polled PatternActed at hp
  unfold RequestsSwitch
  split at hp
  next hspd =>
    obtain ⟨_, _, _, _, _, hsw⟩ := hp
    rw [hsw]
    exact (or_iff_left fun ⟨hno, _⟩ => hno hspd).symm
  next hspd =>
    obtain ⟨_, _, hp⟩ := hp
    split at hp
    next hpat =>
      obtain ⟨_, hp⟩ := hp
      split at hp
      next hrev =>
        obtain ⟨_, _, hsw⟩ := hp
        exact iff_of_true hsw (.inr ⟨hspd, hpat.1, hpat.2, hrev⟩)
      next hrev =>
        obtain ⟨_, _, hsw⟩ := hp
        rw [hsw]
        exact (or_iff_left fun ⟨_, _, _, hyes⟩ => hrev hyes).symm
    next hpat =>
      obtain ⟨_, _, _, hsw⟩ := hp
      rw [hsw]
      exact (or_iff_left fun ⟨_, hs, hl, _⟩ => hpat ⟨hs, hl⟩).symm

/-- CHECK and the operations of a step set `sw` where they poll and the poll requests a switch. -/
theorem execRegs_sw (h : i = .check ∨ InStep (encode i)) :
    (execRegs i s).sw = true ↔ s.regs.sw = true ∨ IsPoll i ∧ RequestsSwitch s.regs := by
  by_cases hpoll : IsPoll i
  · have hsw : (execRegs i s).sw = s.regs.poll.sw := by rcases hpoll with rfl | rfl | rfl <;> rfl
    simp [hsw, poll_sw_iff, hpoll]
  · have hsw : (execRegs i s).sw = s.regs.sw := by
      cases i with
      | delay => obtain ⟨_, _, _, hr⟩ := execRegs_delay_frame s; rw [hr]; rfl
      | check | loadA | loadB | shiftLo | shiftHi | latch => rfl
      | poll1 | poll2 | poll3 => simp [IsPoll] at hpoll
      | fwdInit | passEnd | revInit | reservedD | reservedE | reservedF => simp [InStep, encode] at h
    simp [hsw, hpoll]

/-- A run of CHECK and operations of a step ends with `sw` at 1 where it began so, or where one of its polls requests a
switch. -/
theorem regsAfter_sw (hc : s.cfg.wf = true) {n : Nat} (hn : NoReset s n)
    (ht : ∀ i ∈ trace n s, i = .check ∨ InStep (encode i)) :
    (regsAfter s n).sw = true ↔ s.regs.sw = true ∨ ∃ j < n, SwitchAt s j := by
  induction n with
  | zero => simp
  | succ n ih =>
    rw [trace_succ hc] at ht
    have hbefore := ih (noReset_mono hn n.le_succ) fun i hi => ht i (List.mem_append_left _ hi)
    rw [regsAfter_succ_noReset (hn n n.lt_succ_self)]
    calc (execRegs (stateAfter s n).currentInstr (stateAfter s n)).sw = true
        ↔ (regsAfter s n).sw = true ∨ SwitchAt s n := by
          rw [switchAt_iff hc]
          exact execRegs_sw (s := stateAfter s n) (ht _ (by simp))
      _ ↔ s.regs.sw = true ∨ ∃ j < n + 1, SwitchAt s j := by
          simp only [hbefore, Nat.lt_succ_iff_lt_or_eq, or_and_right, exists_or, exists_eq_left, or_assoc]

end Sys2Proof.Proofs
end

section
/-! PROOFS. The steps of a pass from a CHECK to its PASS_END, whatever the buttons do, and the reverse pass. -/

namespace Sys2Proof.Proofs

open Sys2Proof.Machine Sys2Proof.Laws

variable {c : Config} {s : State} {i : Instr}

/-! ## The pairs that are left -/

/-- At a CHECK, `n` pairs of the pass are left: forward `e_start + e_len - i` is `2n` (R142, R146), in reverse
`i - (e_start + 1)` is. -/
def PairsLeft (r : Regs c) (n : Nat) : Prop :=
  if r.dir then r.i.toNat = r.eStart.toNat + 1 + 2 * n else r.i.toNat + 2 * n = r.eStart.toNat + r.eLen.toNat

/-- The pair shown `m` steps after the pair at the offset, the lower address first (R58, R146). -/
def pairFrom (s : State) (m : Nat) : Byte × Byte :=
  if s.regs.dir then
    (s.storeByte (s.regs.i.toNat - 1 - 2 * m), s.storeByte (s.regs.i.toNat - 2 * m))
  else (s.storeByte (s.regs.i.toNat + 2 * m), s.storeByte (s.regs.i.toNat + 2 * m + 1))

/-- CHECK goes on while pairs are left and no switch is requested (R142). -/
theorem go_iff (h : Inv s) (hS : s.regs.S = 0x1#4) {n : Nat} (hp : PairsLeft s.regs n) :
    s.regs.go = true ↔ 0 < n ∧ s.regs.sw = false := by
  have hS0 : s.regs.S ≠ 0x0#4 := by simp [hS]
  obtain ⟨_, hmin, _, hfit⟩ := inv_latched h hS0
  unfold PairsLeft at hp
  cases hd : s.regs.dir with
  | true =>
    rw [hd, if_pos rfl] at hp
    rw [go_reverse hd, reverseLimit_toNat (inv_config h) (by omega)]
    exact and_congr_left fun _ => by omega
  | false =>
    rw [hd, if_neg Bool.false_ne_true] at hp
    rw [go_forward hd, inv_rangeEnd h hS0]
    exact and_congr_left fun _ => by omega

/-- A step moves the offset by two, without wrapping (R146). -/
theorem step_offset (h : Inv s) (hS : s.regs.S = 0x1#4) (hgo : s.regs.go = true) {d : Nat} (hstep : StepRun s d) :
    (s.regs.dir = false → (stateAfter s (stepLength s.cfg d)).regs.i.toNat = s.regs.i.toNat + 2) ∧
      (s.regs.dir = true → (stateAfter s (stepLength s.cfg d)).regs.i.toNat + 2 = s.regs.i.toNat) := by
  have hc := inv_config h
  have hS0 : s.regs.S ≠ 0x0#4 := by simp [hS]
  obtain ⟨_, _, _, hfit⟩ := inv_latched h hS0
  have hE := inv_rangeEnd h hS0
  obtain ⟨hfwd, hrev⟩ := pairInRange_of_go h hS hgo
  have hnext : (stateAfter s (stepLength s.cfg d)).regs.i.toNat = s.regs.nextOffset.toNat :=
    congrArg BitVec.toNat hstep.offset
  rw [hnext]
  refine ⟨fun hd => ?_, fun hd => ?_⟩
  · have hrange := hfwd hd
    exact nextOffset_forward hc hd (by omega)
  · have hrange := hrev hd
    exact nextOffset_reverse hc hd (by omega)

/-- The pair a step sends is the one at the offset (R51, R56). -/
theorem pairFrom_zero (h : Inv s) (hS : s.regs.S = 0x1#4) (hgo : s.regs.go = true) :
    (s.memRead s.regs.aFirst, s.memRead s.regs.aSecond) = pairFrom s 0 := by
  have hc := inv_config h
  have hS0 : s.regs.S ≠ 0x0#4 := by simp [hS]
  obtain ⟨_, _, hstore, hfit⟩ := inv_latched h hS0
  have hE := inv_rangeEnd h hS0
  obtain ⟨hfwd, hrev⟩ := pairInRange_of_go h hS hgo
  unfold pairFrom
  cases hd : s.regs.dir with
  | false =>
    have hrange := hfwd hd
    obtain ⟨ha, hb⟩ := pair_forward hc hd (by omega)
    rw [memRead_eq hc (by omega), memRead_eq hc (by omega), ha, hb]
    rfl
  | true =>
    have hrange := hrev hd
    obtain ⟨ha, hb⟩ := pair_reverse hc hd (by omega)
    rw [memRead_eq hc (by omega), memRead_eq hc (by omega), hb, Nat.eq_sub_of_add_eq ha]
    rfl

/-- A step uses up one pair. -/
theorem pairsLeft_next (h : Inv s) (hS : s.regs.S = 0x1#4) (hgo : s.regs.go = true) {d n : Nat} (hstep : StepRun s d)
    (hp : PairsLeft s.regs (n + 1)) : PairsLeft (stateAfter s (stepLength s.cfg d)).regs n := by
  obtain ⟨hfwd, hrev⟩ := step_offset h hS hgo hstep
  obtain ⟨hdir, hs, hl⟩ := hstep.entry
  have hd' : (stateAfter s (stepLength s.cfg d)).regs.dir = s.regs.dir := hdir
  have hs' : (stateAfter s (stepLength s.cfg d)).regs.eStart.toNat = s.regs.eStart.toNat := congrArg BitVec.toNat hs
  have hl' : (stateAfter s (stepLength s.cfg d)).regs.eLen.toNat = s.regs.eLen.toNat := congrArg BitVec.toNat hl
  unfold PairsLeft at hp ⊢
  rw [hd']
  cases hd : s.regs.dir with
  | true =>
    have hnext := hrev hd
    rw [hd, if_pos rfl] at hp
    rw [if_pos rfl]
    omega
  | false =>
    have hnext := hfwd hd
    rw [hd, if_neg Bool.false_ne_true] at hp
    rw [if_neg Bool.false_ne_true]
    omega

/-- After a step, the pairs are the same from the second on. -/
theorem pairFrom_next (h : Inv s) (hS : s.regs.S = 0x1#4) (hgo : s.regs.go = true) {d : Nat} (hstep : StepRun s d)
    (m : Nat) : pairFrom (stateAfter s (stepLength s.cfg d)) m = pairFrom s (m + 1) := by
  obtain ⟨hfwd, hrev⟩ := step_offset h hS hgo hstep
  have hd' : (stateAfter s (stepLength s.cfg d)).regs.dir = s.regs.dir := hstep.entry.1
  simp only [pairFrom, hd', stateAfter_storeByte]
  cases hd : s.regs.dir with
  | true =>
    have hnext := hrev hd
    rw [if_pos rfl, if_pos rfl]
    congr 2 <;> omega
  | false =>
    have hnext := hfwd hd
    rw [if_neg Bool.false_ne_true, if_neg Bool.false_ne_true]
    congr 2 <;> omega

/-! ## The steps of a pass -/

/-- From the CHECK of `s`, with `n` pairs left, one step runs for each delay level of `ds`, and then a CHECK that leads
to PASS_END: `Passes` without its first and last cycle. -/
structure StepsRun (s : State) (n : Nat) (ds : List Nat) : Prop where
  /-- No more than `n` steps. -/
  steps      : ds.length ≤ n
  /-- Each step's delay is a level. -/
  levels     : ∀ d ∈ ds, isLevel s.cfg d
  /-- The trace is `STEP^m CHECK`. -/
  operations : trace (stepsLength s.cfg ds + 1) s = stepsTrace s.cfg ds ++ [.check]
  /-- PASS_END is next. -/
  code       : (regsAfter s (stepsLength s.cfg ds + 1)).S = 0xB#4
  /-- Direction and entry are kept. -/
  entry      : SameEntry s.regs (regsAfter s (stepsLength s.cfg ds + 1))
  /-- The steps add their frames, each exactly once, in order, to what an observer reported before. -/
  shown      : ∀ o : Observer, (watch o s (stepsLength s.cfg ds + 1)).frames =
    o.frames ++ (List.range ds.length).map (pairFrom s)
  /-- A poll that requests a switch belongs to the last step. -/
  lastStep   : ∀ j < stepsLength s.cfg ds + 1, SwitchAt s j → stepsLength s.cfg ds.dropLast ≤ j
  /-- Steps that stop short leave a switch request. -/
  early      : ds.length < n → (regsAfter s (stepsLength s.cfg ds + 1)).sw = true
  /-- There is no step where a switch is already requested. -/
  stopped    : s.regs.sw = true → ds = []

theorem mem_stepsTrace {ds : List Nat} (h : i ∈ stepsTrace c ds) : i = .check ∨ InStep (encode i) := by
  obtain ⟨_, hl, hi⟩ := List.mem_flatten.1 h
  obtain ⟨_, _, rfl⟩ := List.mem_map.1 hl
  exact mem_stepTrace hi

theorem stepsLength_le {n : Nat} {ds : List Nat} (hn : ds.length ≤ n) (hl : ∀ d ∈ ds, isLevel c d) :
    stepsLength c ds ≤ n * (39 + c.delayWrap * c.tickCycles) := by
  have hsum := List.sum_le_card_nsmul (ds.map (stepLength c)) (39 + c.delayWrap * c.tickCycles) fun x hx => by
    obtain ⟨d, hd, rfl⟩ := List.mem_map.1 hx
    exact stepLength_le (hl d hd)
  rw [List.length_map, smul_eq_mul] at hsum
  exact hsum.trans (Nat.mul_le_mul_right _ hn)

/-- A CHECK that does not go on is the end of the steps. -/
theorem stepsRun_nil (h : Inv s) (hS : s.regs.S = 0x1#4) {n : Nat} (hp : PairsLeft s.regs n)
    (hgo : ¬ s.regs.go = true) (hn : NoReset s 1) : StepsRun s n [] := by
  have hcheck : s.currentInstr = .check := currentInstr_eq_iff.2 hS
  have hregs : regsAfter s 1 = execRegs .check s := regsAfter_succ_of (n := 0) (hn 0 (by omega)) hS
  exact {
    steps := Nat.zero_le n
    levels := by simp
    operations := by simp [trace_one h.config, hcheck]
    code := by
      show (regsAfter s 1).S = _
      simp [hregs, execRegs, State.checkRule, hgo, encode]
    entry := by
      show SameEntry s.regs (regsAfter s 1)
      rw [hregs]
      exact ⟨rfl, rfl, rfl⟩
    shown := fun o => by
      show (watch o s (0 + 1)).frames = _
      rw [watch_idle h.config o (by simp [trace_one h.config, hcheck])]
      simp
    lastStep := fun j _ _ => Nat.zero_le j
    early := fun hlt => by
      show (regsAfter s 1).sw = true
      rw [hregs]
      show s.regs.sw = true
      by_contra hsw
      exact hgo ((go_iff h hS hp).2 ⟨hlt, by simpa using hsw⟩)
    stopped := fun _ => rfl }

/-- A step before the steps. -/
theorem stepsRun_cons (h : Inv s) (hS : s.regs.S = 0x1#4) (hgo : s.regs.go = true) {d n : Nat} {ds : List Nat}
    (hn : NoReset s (stepLength s.cfg d)) (hstep : StepRun s d)
    (hrest : StepsRun (stateAfter s (stepLength s.cfg d)) n ds) : StepsRun s (n + 1) (d :: ds) := by
  have hlen : stepsLength s.cfg (d :: ds) + 1 = stepLength s.cfg d + (stepsLength s.cfg ds + 1) := by
    rw [stepsLength_cons, stepLength, Nat.add_assoc]
  have hend : regsAfter s (stepsLength s.cfg (d :: ds) + 1) =
      regsAfter (stateAfter s (stepLength s.cfg d)) (stepsLength s.cfg ds + 1) := by rw [regsAfter_add, hlen]
  exact {
    steps := Nat.succ_le_succ hrest.steps
    levels := List.forall_mem_cons.2 ⟨hstep.level, hrest.levels⟩
    operations := by
      rw [hlen, trace_split h.config, hstep.operations, stepsTrace_cons, List.append_assoc]
      exact congrArg _ hrest.operations
    code := by rw [hend]; exact hrest.code
    entry := by rw [hend]; exact SameEntry.trans hstep.entry hrest.entry
    shown := fun o => by
      rw [hlen, watch_split h.config]
      refine (hrest.shown _).trans ?_
      rw [hstep.shown, pairFrom_zero h hS hgo, List.length_cons, List.range_succ_eq_map, List.append_assoc]
      simp [pairFrom_next h hS hgo hstep, Function.comp_def]
    lastStep := fun j hj hat => by
      cases ds with
      | nil => exact Nat.zero_le j
      | cons d' ds =>
        have hlate : stepLength s.cfg d ≤ j := by
          by_contra hlt
          have hsw := (regsAfter_sw h.config hn (hstep.operations ▸ fun _ hi => mem_stepTrace hi)).2
            (.inr ⟨j, by omega, hat⟩)
          exact List.cons_ne_nil _ _ (hrest.stopped hsw)
        obtain ⟨k, rfl⟩ := Nat.exists_eq_add_of_le hlate
        have hk := hrest.lastStep k (by rw [hlen] at hj; exact Nat.lt_of_add_lt_add_left hj)
          ((switchAt_stateAfter h.config _ _).2 hat)
        rw [List.dropLast_cons_cons, stepsLength_cons]
        exact Nat.add_le_add_left hk _
    early := fun hlt => by rw [hend]; exact hrest.early (Nat.lt_of_succ_lt_succ hlt)
    stopped := fun hsw => by
      cases hsw.symm.trans (sw_of_go hgo) }

/-- From a CHECK with `n` pairs left, steps run until no pair is left or a switch is requested, by induction on `n`. -/
theorem stepsRun_exists {n : Nat} (h : Inv s) (hS : s.regs.S = 0x1#4) (hp : PairsLeft s.regs n)
    (hn : NoReset s (n * (39 + s.cfg.delayWrap * s.cfg.tickCycles) + 1)) : ∃ ds, StepsRun s n ds := by
  induction n generalizing s with
  | zero =>
    have hgo : ¬ s.regs.go = true := fun hgo => absurd ((go_iff h hS hp).1 hgo).1 (Nat.lt_irrefl 0)
    exact ⟨[], stepsRun_nil h hS hp hgo (noReset_mono hn (by omega))⟩
  | succ n ih =>
    by_cases hgo : s.regs.go = true
    · rw [Nat.succ_mul] at hn
      obtain ⟨d, hstep⟩ := stepRun_of_go h hS hgo (noReset_mono hn (by omega))
      have hlen := stepLength_le hstep.level
      obtain ⟨ds, hrest⟩ := ih (s := stateAfter s (stepLength s.cfg d)) (inv_stateAfter h _) hstep.code
        (pairsLeft_next h hS hgo hstep hp)
        (noReset_stateAfter hn (by simp only [stateAfter_cfg]; omega))
      exact ⟨d :: ds, stepsRun_cons h hS hgo (noReset_mono hn (by omega)) hstep hrest⟩
    · exact ⟨[], stepsRun_nil h hS hp hgo (noReset_mono hn (by omega))⟩

/-! ## A pass -/

/-- The last cycle of a pass is PASS_END's, direction and entry those of its first CHECK. -/
theorem stepsRun_end {n : Nat} {ds : List Nat} (hrun : StepsRun (stateAfter s 1) n ds) :
    (regsAfter s (stepsLength s.cfg ds + 2)).S = 0xB#4 ∧
      SameEntry (regsAfter s 1) (regsAfter s (stepsLength s.cfg ds + 2)) := by
  have hadd : regsAfter (stateAfter s 1) (stepsLength s.cfg ds + 1) = regsAfter s (stepsLength s.cfg ds + 2) :=
    (regsAfter_add s 1 _).trans (by rw [Nat.add_comm])
  rw [← hadd]
  exact ⟨hrun.code, hrun.entry⟩

/-- FWD_INIT or REV_INIT, then the steps, then PASS_END are a pass (R149, R150). -/
theorem passes_of_stepsRun (hc : s.cfg.wf = true) {start : Instr} (hstart : s.currentInstr = start)
    (hinit : start = .fwdInit ∨ start = .revInit) {n : Nat} {ds : List Nat} (hn : NoReset s (stepsLength s.cfg ds + 2))
    (hsw : (regsAfter s 1).sw = false) (hrun : StepsRun (stateAfter s 1) n ds) {pair : Nat → Byte × Byte}
    (hpair : ∀ m < n, pairFrom (stateAfter s 1) m = pair m) :
    Passes s start n pair ds (regsAfter s (stepsLength s.cfg ds + 3)) := by
  have hlen : stepsLength s.cfg ds + 2 = 1 + (stepsLength s.cfg ds + 1) := by omega
  obtain ⟨hcode, _⟩ := stepsRun_end hrun
  have hend : (stateAfter s (stepsLength s.cfg ds + 2)).currentInstr = .passEnd := currentInstr_eq_iff.2 hcode
  have hnoPoll : ¬ IsPoll .passEnd ∧ ¬ IsPoll start := by rcases hinit with rfl | rfl <;> simp [IsPoll]
  obtain ⟨hnoPollEnd, hnoPollStart⟩ := hnoPoll
  have hops : trace (stepsLength s.cfg ds + 1) (stateAfter s 1) = stepsTrace s.cfg ds ++ [.check] := hrun.operations
  exact {
    steps := hrun.steps
    levels := hrun.levels
    operations := by
      rw [trace_succ hc, hend, hlen, trace_split hc, trace_one hc, hstart, hops]
      simp
    finish := cycles_eq hc _
    shown := by
      have hquiet : (watch Observer.start s 1).frames = [] := by
        rw [watch_idle hc _ (n := 0) (by rcases hinit with rfl | rfl <;> simp [trace_one hc, hstart])]
        rfl
      have hlow := lines_low (s := stateAfter s (stepsLength s.cfg ds + 2)) (by simp [hcode]) (by simp [hcode])
      show (watch Observer.start s (stepsLength s.cfg ds + 3)).frames = _
      rw [watch_succ hc, sample_low hlow, hlen, watch_split hc]
      refine (hrun.shown _).trans ?_
      rw [hquiet, List.nil_append]
      exact List.map_congr_left fun m hm => hpair m ((List.mem_range.1 hm).trans_le hrun.steps)
    lastStep := fun j hj hat => by
      have hpoll := ((switchAt_iff hc j).1 hat).1
      rcases Nat.eq_zero_or_pos j with rfl | hpos
      · exact absurd (hstart ▸ hpoll) hnoPollStart
      · obtain ⟨k, rfl⟩ := Nat.exists_eq_add_of_le hpos
        have hk : k < stepsLength s.cfg ds + 1 := by
          by_contra hle
          obtain rfl : k = stepsLength s.cfg ds + 1 := by omega
          rw [← hlen, hend] at hpoll
          exact hnoPollEnd hpoll
        exact Nat.add_le_add_left (hrun.lastStep k hk ((switchAt_stateAfter hc 1 k).2 hat)) 1
    early := fun hlt => by
      have hmem : ∀ i ∈ trace (stepsLength s.cfg ds + 1) (stateAfter s 1), i = .check ∨ InStep (encode i) := by
        rw [hops]
        exact fun i hi => (List.mem_append.1 hi).elim mem_stepsTrace fun hlast => .inl (List.mem_singleton.1 hlast)
      obtain ⟨j, hj, hat⟩ := ((regsAfter_sw (s := stateAfter s 1) hc (noReset_stateAfter hn (by omega)) hmem).1
        (hrun.early hlt)).resolve_left (by simp [hsw])
      exact ⟨1 + j, by omega, (switchAt_stateAfter hc 1 j).1 hat⟩ }

/-! ## The reverse pass -/

/-- REV_INIT leads to a CHECK with all inner pairs left (R148). -/
theorem revInit_pairsLeft (h : Inv s) (hS : s.regs.S = 0xC#4) :
    PairsLeft (execRegs .revInit s) (s.regs.eLen.toNat / 2 - 2) := by
  obtain ⟨heven, hmin, _, hfit⟩ := inv_latched h (by simp [hS])
  have hstart := reverseStart_toNat (inv_config h) hfit (by omega)
  show s.regs.reverseStart.toNat = s.regs.eStart.toNat + 1 + 2 * (s.regs.eLen.toNat / 2 - 2)
  omega

/-- From there, the `m`-th pair is `P_{n-2-m}` of the entry (R150). -/
theorem revInit_pairFrom (h : Inv s) (hS : s.regs.S = 0xC#4) {m : Nat} (hm : m < s.regs.eLen.toNat / 2 - 2) :
    pairFrom (s.later 1 (execRegs .revInit s)) m =
      (s.storeByte (s.regs.eStart.toNat + 2 * (s.regs.eLen.toNat / 2 - 2 - m)),
        s.storeByte (s.regs.eStart.toNat + 2 * (s.regs.eLen.toNat / 2 - 2 - m) + 1)) := by
  obtain ⟨heven, hmin, _, hfit⟩ := inv_latched h (by simp [hS])
  have hstart := reverseStart_toNat (inv_config h) hfit (by omega)
  show (s.storeByte (s.regs.reverseStart.toNat - 1 - 2 * m), s.storeByte (s.regs.reverseStart.toNat - 2 * m)) = _
  congr 2 <;> omega

/-- PASS_END of a reverse pass restarts, the switch request cleared and the entry kept (R147). -/
theorem passEnd_reverse (hd : s.regs.dir = true) :
    (execRegs .passEnd s).S = 0x0#4 ∧ (execRegs .passEnd s).sw = false ∧ SameEntry s.regs (execRegs .passEnd s) := by
  have hfollows : s.regs.reverseFollows = false := by simp [Regs.reverseFollows, hd]
  simp [execRegs, State.passEndRule, hfollows, SameEntry, encode]

/-- Settles O49: REV_INIT, the steps of the inner pairs, PASS_END. -/
theorem reversePassShowsItsPairsWhateverTheButtons : Obligations.ReversePassShowsItsPairsWhateverTheButtons := by
  intro s h hS hsw n hn
  have hc := h.config
  have hop : s.currentInstr = .revInit := currentInstr_eq_iff.2 hS
  have hfirst : regsAfter s 1 = execRegs .revInit s := regsAfter_succ_of (n := 0) (hn 0 (by omega)) hS
  have hstate : stateAfter s 1 = s.later 1 (execRegs .revInit s) := congrArg (s.later 1) hfirst
  have hleft : PairsLeft (stateAfter s 1).regs (n - 2) := by
    rw [hstate]
    exact revInit_pairsLeft h hS
  obtain ⟨ds, hrun⟩ := stepsRun_exists (inv_stateAfter h 1) (by rw [hstate]; rfl) hleft
    (noReset_stateAfter hn (by simp only [stateAfter_cfg]; omega))
  have hlen : stepsLength s.cfg ds ≤ _ := stepsLength_le hrun.steps hrun.levels
  have hnr : NoReset s (stepsLength s.cfg ds + 3) := noReset_mono hn (by omega)
  obtain ⟨hcode, hd, hs, hl⟩ := stepsRun_end hrun
  have hlast : regsAfter s (stepsLength s.cfg ds + 3) = execRegs .passEnd (stateAfter s (stepsLength s.cfg ds + 2)) :=
    regsAfter_succ_of (hnr _ (by omega)) hcode
  obtain ⟨hS', hsw', _, hs', hl'⟩ :=
    passEnd_reverse (s := stateAfter s (stepsLength s.cfg ds + 2)) (hd.trans (by rw [hfirst]; rfl))
  refine ⟨ds, regsAfter s (stepsLength s.cfg ds + 3), passes_of_stepsRun hc hop (.inr rfl)
    (noReset_mono hnr (by omega)) (by rw [hfirst]; exact hsw) hrun fun m hm => ?_, ?_⟩
  · rw [hstate]
    exact revInit_pairFrom h hS hm
  · rw [hlast]
    exact ⟨hS', hs'.trans (hs.trans (by rw [hfirst]; rfl)), hl'.trans (hl.trans (by rw [hfirst]; rfl)), hsw'⟩

end Sys2Proof.Proofs
end

section
/-! PROOFS. The encoding: codes, bytes and operations agree; a step is the operation of its code; the reserved codes
recover. -/

namespace Sys2Proof.Proofs

open Sys2Proof.Machine Sys2Proof.Laws

variable {s : State} {i : Instr}

/-! ## Codes and bytes -/

/-- Every operation is read back from its code (R70, R71). -/
theorem decodeCode_encode (i : Instr) : decodeCode (encode i) = i := by cases i <;> rfl

/-- A byte below 16 decodes to the operation of its low four bits. -/
theorem decodeBytes_of_lt {b : Byte} (h : b.toNat < 16) (rest : List Byte) :
    decodeBytes (b :: rest) = .ok (decodeCode (b.setWidth 4), rest) :=
  if_pos h

/-- A byte with a bit above bit 3 is rejected. -/
theorem decodeBytes_of_le {b : Byte} (h : 16 ≤ b.toNat) (rest : List Byte) :
    decodeBytes (b :: rest) = .error .widerThanFourBits :=
  if_neg h.not_gt

theorem encodeByte_lt (i : Instr) : (encodeByte i).toNat < 16 := by cases i <;> decide

/-- The low four bits of an operation's byte are its code. -/
theorem encodeByte_setWidth (i : Instr) : (encodeByte i).setWidth 4 = encode i := by cases i <;> rfl

/-- A byte below 16 is the byte of the operation it decodes to. -/
theorem encodeByte_decodeCode {b : Byte} (h : b.toNat < 16) : encodeByte (decodeCode (b.setWidth 4)) = b := by
  rw [encodeByte, encode_decodeCode]
  apply BitVec.eq_of_toNat_eq
  rw [BitVec.toNat_setWidth, BitVec.toNat_setWidth, Nat.mod_eq_of_lt h, Nat.mod_eq_of_lt b.isLt]

/-- Settles O2: `encode` inverts `decodeCode`, and the layout in a byte adds four bits that the decoder checks. -/
theorem decodeAndEncodeAgree : Obligations.DecodeAndEncodeAgree := by
  refine ⟨decodeCode_encode, encode_decodeCode, fun i rest => ?_, fun b rest i rest' h => ?_,
    fun _ rest h => decodeBytes_of_le h rest⟩
  · rw [decodeBytes_of_lt (encodeByte_lt i), encodeByte_setWidth, decodeCode_encode]
  · rcases lt_or_ge b.toNat 16 with hlt | hge
    · rw [decodeBytes_of_lt hlt] at h
      obtain ⟨rfl, rfl⟩ := Prod.mk.inj (Except.ok.inj h)
      exact ⟨(encodeByte_decodeCode hlt).symm, rfl⟩
    · rw [decodeBytes_of_le hge] at h
      cases h

/-- Settles O1: each word of R71's map is the code of its row's operation. -/
theorem codesDecodeAsTheMapSays : Obligations.CodesDecodeAsTheMapSays :=
  ⟨decodeCode_encode .fwdInit, decodeCode_encode .check, decodeCode_encode .loadA, decodeCode_encode .loadB,
    decodeCode_encode .shiftLo, decodeCode_encode .shiftHi, decodeCode_encode .latch, decodeCode_encode .poll1,
    decodeCode_encode .poll2, decodeCode_encode .delay, decodeCode_encode .poll3, decodeCode_encode .passEnd,
    decodeCode_encode .revInit, decodeCode_encode .reservedD, decodeCode_encode .reservedE,
    decodeCode_encode .reservedF⟩

/-! ## A step is the operation of its code -/

/-- Without a reset a step is the operation that the code selects (R173). -/
theorem step_eq_exec (hc : s.cfg.wf = true) (hr : s.portIn.rst = false) : step s = exec (decodeCode s.regs.S) s := by
  rw [step_eq hc, nextRegs_of hr rfl, exec_eq]

/-- A table word of eight bits is read as the operation of the code that `withFetchWord` places. -/
theorem decodeCode_of_decodeTableWord {w : Nat} (h : decodeTableWord 8 w = some i) :
    decodeCode (BitVec.ofNat 4 (w % 2 ^ 8)) = i := by
  have hbyte : tableBytes (w % 2 ^ 8) ((8 + 7) / 8) = [BitVec.ofNat 8 (w % 2 ^ 8)] := rfl
  have hcode : (BitVec.ofNat 8 (w % 2 ^ 8)).setWidth 4 = BitVec.ofNat 4 (w % 2 ^ 8) :=
    BitVec.setWidth_ofNat_of_le (by decide) _
  rw [decodeTableWord, hbyte] at h
  rcases lt_or_ge (BitVec.ofNat 8 (w % 2 ^ 8)).toNat 16 with hlt | hge
  · rw [decodeBytes_of_lt hlt, hcode] at h
    exact Option.some.inj h
  · rw [decodeBytes_of_le hge] at h
    cases h

/-- Settles O3: `step` is `exec` of the selected code, and `withFetchWord` selects the word's code with `rst` low. -/
theorem stepRunsTheSelectedOperation : Obligations.StepRunsTheSelectedOperation := by
  refine ⟨fun _ => step_eq_exec, fun s w i hc hw => ?_⟩
  have hstep : step (s.withFetchWord 8 w) = exec (decodeCode (BitVec.ofNat 4 (w % 2 ^ 8))) (s.withFetchWord 8 w) :=
    step_eq_exec (s := s.withFetchWord 8 w) hc rfl
  rwa [decodeCode_of_decodeTableWord hw] at hstep

/-! ## The reserved codes -/

/-- A reserved operation loads `RESET_STATE` (R74). -/
theorem execRegs_reserved (h : i = .reservedD ∨ i = .reservedE ∨ i = .reservedF) :
    execRegs i s = Regs.reset s.cfg := by
  rcases h with rfl | rfl | rfl <;> rfl

/-- A step from a reserved code loads `RESET_STATE`, with or without a reset (R74). -/
theorem nextRegs_reserved (h : s.regs.S = 0xD#4 ∨ s.regs.S = 0xE#4 ∨ s.regs.S = 0xF#4) :
    nextRegs s = Regs.reset s.cfg := by
  have hop : execRegs (decodeCode s.regs.S) s = Regs.reset s.cfg :=
    execRegs_reserved (h.imp (congrArg decodeCode) (Or.imp (congrArg decodeCode) (congrArg decodeCode)))
  rw [nextRegs, hop, ite_self]

/-- No step leaves a reserved code (INV1). -/
theorem nextRegs_legal (s : State) : (nextRegs s).S.toNat ≤ 0xC := by
  by_cases h0 : (nextRegs s).S = 0x0#4
  · simp [h0]
  · exact successors_legal _ _ (nextRegs_S_mem h0)

/-- Settles O36: the reserved operations and the steps from their codes load `RESET_STATE`, and no operation has a
reserved successor. -/
theorem reservedCodesRecover : Obligations.ReservedCodesRecover := by
  refine ⟨rfl, rfl, rfl, fun s i hi => ⟨execRegs i s, exec_eq i s, ?_, State.later_storeByte s 1 _⟩,
    fun s hc hS => ⟨nextRegs s, step_eq hc, ?_⟩, fun s t hst => ?_⟩
  · rw [execRegs_reserved hi]
    exact isResetState_reset s.cfg
  · rw [nextRegs_reserved hS]
    exact isResetState_reset s.cfg
  · obtain ⟨_, rfl⟩ := step_next hst
    exact nextRegs_legal s

end Sys2Proof.Proofs
end

section
/-! PROOFS. Runs that depend on the inputs of their own edges alone, and runs without button events: they keep the
playback state, and their steps have the level in force as their delay. -/

namespace Sys2Proof.Proofs

open Sys2Proof.Machine Sys2Proof.Laws

variable {c : Config} {s : State} {i : Instr}

/-! ## A run reads the inputs of its own edges -/

/-- The state with other inputs to come. -/
def withInputs (s : State) (xs : List PortIn) : State := { s with inputs := xs }

/-- The state with no reset and no button at the edges of a step, however long its delay. -/
def withQuietInputs (s : State) : State :=
  withInputs s (List.replicate (39 + s.cfg.delayWrap * s.cfg.tickCycles) ⟨false, false, false⟩)

theorem withQuietInputs_portInAt {j : Nat} (hj : j < 39 + s.cfg.delayWrap * s.cfg.tickCycles) :
    (withQuietInputs s).portInAt j = ⟨false, false, false⟩ := by
  simp [withQuietInputs, withInputs, State.portInAt, hj]

/-- The invariants say nothing of the inputs to come. -/
theorem inv_withInputs (h : Inv s) (xs : List PortIn) : Inv (withInputs s xs) := { h with }

/-- An operation reads the levels of its own edge alone. -/
theorem execRegs_withInputs {xs : List PortIn} (h : (withInputs s xs).portIn = s.portIn) (i : Instr) :
    execRegs i (withInputs s xs) = execRegs i s := by
  cases i with
  | reservedD | reservedE | reservedF => rfl
  | _ => exact congrArg (Regs.synchronise _) h

/-- A step reads the levels of its own edge alone. -/
theorem nextRegs_withInputs {xs : List PortIn} (h : (withInputs s xs).portIn = s.portIn) :
    nextRegs (withInputs s xs) = nextRegs s := by
  unfold nextRegs
  rw [h]
  exact congrArg (fun r => if s.portIn.rst then Regs.reset s.cfg else r) (execRegs_withInputs h _)

/-- Waveforms that agree at the next `n` edges lead through the same registers. -/
theorem regsAfter_withInputs {xs : List PortIn} {n : Nat} (h : ∀ j < n, (withInputs s xs).portInAt j = s.portInAt j)
    {m : Nat} (hm : m ≤ n) : regsAfter (withInputs s xs) m = regsAfter s m := by
  induction m with
  | zero => rfl
  | succ m ih =>
    have hedge : (withInputs (stateAfter s m) (xs.drop m)).portIn = (stateAfter s m).portIn := by
      rw [stateAfter_portIn, ← h m (by omega)]
      exact State.later_portIn (withInputs s xs) m (regsAfter s m)
    have hstate : stateAfter (withInputs s xs) m = withInputs (stateAfter s m) (xs.drop m) :=
      congrArg ((withInputs s xs).later m) (ih (by omega))
    exact eq_of_heq ((congr_arg_heq nextRegs hstate).trans (heq_of_eq (nextRegs_withInputs hedge)))

/-- A step of the scan is the same under every waveform that agrees at its own edges. -/
theorem stepRun_withInputs (hc : s.cfg.wf = true) {xs : List PortIn} {d : Nat}
    (h : ∀ j < stepLength s.cfg d, (withInputs s xs).portInAt j = s.portInAt j)
    (hstep : StepRun (withInputs s xs) d) : StepRun s d := by
  have hregs {m : Nat} (hm : m ≤ stepLength s.cfg d) := regsAfter_withInputs h hm
  have hend : regsAfter (withInputs s xs) (stepLength s.cfg d) = regsAfter s (stepLength s.cfg d) := hregs le_rfl
  have h38 : regsAfter (withInputs s xs) 38 = regsAfter s 38 := hregs (by rw [stepLength]; omega)
  have htrace : trace (stepLength s.cfg d) (withInputs s xs) = trace (stepLength s.cfg d) s := by
    rw [trace_eq (s := withInputs s xs) hc, trace_eq hc]
    exact List.map_congr_left fun j hj =>
      congrArg (fun r : Regs s.cfg => decodeCode r.S) (hregs (List.mem_range.1 hj).le)
  have hobserve : observe (stepLength s.cfg d) (withInputs s xs) = observe (stepLength s.cfg d) s := by
    rw [observe_eq (s := withInputs s xs) hc, observe_eq hc]
    exact List.map_congr_left fun j hj =>
      congrArg (fun r : Regs s.cfg => (s.later j r).outputs) (hregs (List.mem_range.1 hj).le)
  exact {
    level := hstep.level
    loaded := h38 ▸ hstep.loaded
    operations := htrace ▸ hstep.operations
    code := hend ▸ hstep.code
    offset := hend ▸ hstep.offset
    entry := hend ▸ hstep.entry
    shown := fun o => by
      rw [watch, ← hobserve]
      exact hstep.shown o }

/-! ## Runs without button events -/

/-- No press is on its way through the synchronisers. -/
def StagesLow (r : Regs c) : Prop := r.spdS1 = false ∧ r.spdS2 = false ∧ r.patS1 = false ∧ r.patS2 = false

/-- The synchroniser rule runs beside every legal operation (R120). -/
theorem execRegs_synchronised (hl : (encode i).toNat ≤ 0xC) : Synchronised s.regs s.portIn (execRegs i s) := by
  cases i with
  | poll1 | poll2 | poll3 =>
    simp [Synchronised, execRegs, State.poll1Rule, State.poll2Rule, State.poll3Rule]
  | delay =>
    obtain ⟨_, _, _, hr⟩ := execRegs_delay_frame s
    rw [hr]
    exact ⟨rfl, rfl, rfl, rfl⟩
  | passEnd =>
    obtain ⟨_, _, hr⟩ := execRegs_passEnd_frame s
    rw [hr]
    exact ⟨rfl, rfl, rfl, rfl⟩
  | reservedD | reservedE | reservedF => simp [encode] at hl
  | _ => exact ⟨rfl, rfl, rfl, rfl⟩

theorem noReset_of_quiet {n : Nat} (h : Quiet s n) : NoReset s n := fun j hj => by rw [h.1 j hj]

theorem quiet_mono {n m : Nat} (h : Quiet s n) (hm : m ≤ n) : Quiet s m := ⟨fun j hj => h.1 j (by omega), h.2⟩

/-- Under the invariants, a cycle without a reset runs a legal operation. -/
theorem regsAfter_succ_legal (h : Inv s) {n : Nat} (hr : (s.portInAt n).rst = false) :
    ∃ i, (encode i).toNat ≤ 0xC ∧ regsAfter s (n + 1) = execRegs i (stateAfter s n) :=
  ⟨_, inv_legal (inv_stateAfter h n) (encode_decodeCode _).symm, regsAfter_succ_noReset hr⟩

/-- A quiet run leaves the synchronisers low. -/
theorem regsAfter_stagesLow (h : Inv s) {n : Nat} (hq : Quiet s n) : StagesLow (regsAfter s n) := by
  induction n with
  | zero => exact hq.2
  | succ n ih =>
    obtain ⟨i, hl, hregs⟩ := regsAfter_succ_legal h (noReset_of_quiet hq n n.lt_succ_self)
    obtain ⟨hs1, _, hp1, _⟩ := ih (quiet_mono hq n.le_succ)
    obtain ⟨hs1', hs2', hp1', hp2'⟩ := execRegs_synchronised (s := stateAfter s n) hl
    have hport : (stateAfter s n).portIn = ⟨false, false, false⟩ :=
      (stateAfter_portIn s n).trans (hq.1 n n.lt_succ_self)
    rw [hregs]
    exact ⟨hs1'.trans (by rw [hport]), hs2'.trans hs1, hp1'.trans (by rw [hport]), hp2'.trans hp1⟩

/-- The rest of a quiet run is quiet. -/
theorem quiet_stateAfter (h : Inv s) {n k m : Nat} (hq : Quiet s n) (hm : k + m ≤ n) : Quiet (stateAfter s k) m := by
  refine ⟨fun j hj => ?_, regsAfter_stagesLow h (quiet_mono hq (by omega))⟩
  rw [stateAfter_portInAt]
  exact hq.1 (k + j) (by omega)

/-- A poll without a press leaves the playback state alone (R121, R122). -/
theorem poll_samePlayback {r : Regs c} (h : StagesLow r) : SamePlayback r r.poll := by
  obtain ⟨_, hs2, _, hp2⟩ := h
  have hp := poll_polled r
  simp only [Polled, hs2, hp2, Bool.false_eq_true, false_and, if_false] at hp
  obtain ⟨_, hdelay, _, hidx, hrev, hsw⟩ := hp
  exact ⟨hidx, hrev, hdelay, hsw⟩

/-- Without a press and without a switch request, a legal operation leaves the playback state alone. -/
theorem execRegs_samePlayback (hl : (encode i).toNat ≤ 0xC) (hlow : StagesLow s.regs) (hsw : s.regs.sw = false) :
    SamePlayback s.regs (execRegs i s) := by
  cases i with
  | poll1 | poll2 | poll3 => exact poll_samePlayback hlow
  | delay =>
    obtain ⟨_, _, _, hr⟩ := execRegs_delay_frame s
    rw [hr]
    exact ⟨rfl, rfl, rfl, rfl⟩
  | passEnd =>
    have hclear : (execRegs .passEnd s).sw = s.regs.sw := by
      by_contra hne
      exact hne ((execRegs_passEnd_sw hne).trans hsw.symm)
    obtain ⟨_, _, hr⟩ := execRegs_passEnd_frame s
    rw [hr] at hclear ⊢
    exact ⟨rfl, rfl, rfl, hclear⟩
  | reservedD | reservedE | reservedF => simp [encode] at hl
  | _ => exact ⟨rfl, rfl, rfl, rfl⟩

/-- A quiet run that starts without a switch request keeps the playback state. -/
theorem regsAfter_samePlayback (h : Inv s) {n : Nat} (hq : Quiet s n) (hsw : s.regs.sw = false) :
    SamePlayback s.regs (regsAfter s n) := by
  induction n with
  | zero => exact ⟨rfl, rfl, rfl, rfl⟩
  | succ n ih =>
    have hq' := quiet_mono hq n.le_succ
    obtain ⟨i, hl, hregs⟩ := regsAfter_succ_legal h (noReset_of_quiet hq n n.lt_succ_self)
    obtain ⟨hidx, hrev, hdelay, hsw'⟩ := ih hq'
    obtain ⟨hidx1, hrev1, hdelay1, hsw1⟩ :=
      execRegs_samePlayback (s := stateAfter s n) hl (regsAfter_stagesLow h hq') (hsw'.trans hsw)
    rw [hregs]
    exact ⟨hidx1.trans hidx, hrev1.trans hrev, hdelay1.trans hdelay, hsw1.trans hsw'⟩

/-! ## The steps of a quiet run -/

/-- From a CHECK that goes on, a quiet step has the level in force as its delay. The state with a longer quiet waveform
runs a step (R153), and the step reads its own edges alone. -/
theorem stepRun_of_quiet (h : Inv s) (hS : s.regs.S = 0x1#4) (hgo : s.regs.go = true)
    (hq : Quiet s (stepLength s.cfg s.regs.delay.toNat)) : StepRun s s.regs.delay.toNat := by
  have h38 : 38 ≤ stepLength s.cfg s.regs.delay.toNat := by rw [stepLength]; omega
  have hagree : ∀ j < stepLength s.cfg s.regs.delay.toNat, (withQuietInputs s).portInAt j = s.portInAt j :=
    fun j hj => (withQuietInputs_portInAt (hj.trans_le (stepLength_le h.level))).trans (hq.1 j hj).symm
  obtain ⟨d, hstep⟩ := stepRun_of_go (s := withQuietInputs s) (inv_withInputs h _) hS hgo fun j hj =>
    congrArg PortIn.rst (withQuietInputs_portInAt hj)
  obtain ⟨_, _, hticks, _⟩ := check_toDelay h.config (noReset_mono (noReset_of_quiet hq) h38) hS hgo
  obtain ⟨_, _, hdelay, _⟩ := regsAfter_samePlayback h (quiet_mono hq h38) (sw_of_go hgo)
  have hloaded : (regsAfter s 38).ticks.toNat = d := regsAfter_withInputs hagree h38 ▸ hstep.loaded.2
  have hd : s.regs.delay.toNat = d := by rw [← hloaded, hticks, hdelay]
  exact stepRun_withInputs h.config hagree (hd ▸ hstep)

end Sys2Proof.Proofs
end

section
/-! PROOFS. One step of the scan, the forward pass whatever the buttons do, and the passes without button events. -/

namespace Sys2Proof.Proofs

open Sys2Proof.Machine Sys2Proof.Laws

variable {s : State} {i : Instr}

/-! ## One step -/

/-- Settles O43: the step that a CHECK that goes on starts, seen by an observer that has seen nothing before. -/
theorem oneStepShowsOnePair : Obligations.OneStepShowsOnePair := by
  intro s h hS hsw hfwd hrev hn
  have hgo : s.regs.go = true := by
    cases hd : s.regs.dir with
    | false => exact (go_forward hd).2 ⟨hfwd hd, hsw⟩
    | true =>
      obtain ⟨_, hmin, _, hfit⟩ := inv_latched h (by simp [hS])
      exact (go_reverse hd).2 ⟨(reverseLimit_toNat (inv_config h) (by omega)).trans_le (hrev hd), hsw⟩
  obtain ⟨d, hstep⟩ := stepRun_of_go h hS hgo hn
  obtain ⟨hcode, hticks⟩ := hstep.loaded
  obtain ⟨hd, hs, hl⟩ := hstep.entry
  exact ⟨d, _, _, hstep.level, cycles_eq h.config 38, hcode, hticks, hstep.operations, cycles_eq h.config _,
    hstep.code, hstep.offset, hd, hs, hl, hstep.shown Observer.start⟩

/-! ## The steps of a pass -/

/-- There is a step where a pair is left and no switch is requested. -/
theorem stepsRun_ne_nil (h : Inv s) (hS : s.regs.S = 0x1#4) {n : Nat} (hp : PairsLeft s.regs n) (hpos : 0 < n)
    (hsw : s.regs.sw = false) (hn : NoReset s 1) {ds : List Nat} (hrun : StepsRun s n ds) : ds ≠ [] := by
  rintro rfl
  have hA := (check_goes hn hS ((go_iff h hS hp).2 ⟨hpos, hsw⟩)).1
  have hB : (regsAfter s 1).S = 0xB#4 := hrun.code
  simp [hA] at hB

/-- The steps end with `sw` at 1 where they began so, or where one of their polls requests a switch. -/
theorem stepsRun_sw (hc : s.cfg.wf = true) {n : Nat} {ds : List Nat} (hn : NoReset s (stepsLength s.cfg ds + 1))
    (hrun : StepsRun s n ds) :
    (regsAfter s (stepsLength s.cfg ds + 1)).sw = true ↔
      s.regs.sw = true ∨ ∃ j < stepsLength s.cfg ds + 1, SwitchAt s j := by
  refine regsAfter_sw hc hn ?_
  rw [hrun.operations]
  exact fun i hi => (List.mem_append.1 hi).elim mem_stepsTrace fun hlast => .inl (List.mem_singleton.1 hlast)

theorem stepsLength_replicate (c : Config) (n d : Nat) : stepsLength c (List.replicate n d) = n * stepLength c d := by
  simp [stepsLength, stepLength]

/-- From a CHECK with `n` pairs left, a quiet run makes `n` steps, each with the level in force as its delay, by
induction on `n`. -/
theorem stepsRun_of_quiet {n : Nat} (h : Inv s) (hS : s.regs.S = 0x1#4) (hp : PairsLeft s.regs n)
    (hsw : s.regs.sw = false) (hq : Quiet s (n * stepLength s.cfg s.regs.delay.toNat + 1)) :
    StepsRun s n (List.replicate n s.regs.delay.toNat) := by
  have hgo := go_iff h hS hp
  induction n generalizing s with
  | zero =>
    exact stepsRun_nil h hS hp (fun hgo' => absurd (hgo.1 hgo').1 (Nat.lt_irrefl 0))
      (noReset_mono (noReset_of_quiet hq) (by omega))
  | succ n ih =>
    have hgo := hgo.2 ⟨n.succ_pos, hsw⟩
    rw [Nat.succ_mul] at hq
    have hfirst := quiet_mono hq (show stepLength s.cfg s.regs.delay.toNat ≤ _ by omega)
    have hstep := stepRun_of_quiet h hS hgo hfirst
    obtain ⟨_, _, hdelay, hsw'⟩ := regsAfter_samePlayback h hfirst hsw
    have hinv := inv_stateAfter h (stepLength s.cfg s.regs.delay.toNat)
    have hleft := pairsLeft_next h hS hgo hstep hp
    have hlevel : (stateAfter s (stepLength s.cfg s.regs.delay.toNat)).regs.delay.toNat = s.regs.delay.toNat :=
      congrArg BitVec.toNat hdelay
    have hrest := ih hinv hstep.code hleft (hsw'.trans hsw)
      (by rw [hlevel]; exact quiet_stateAfter h hq (by simp only [stateAfter_cfg]; omega))
      (go_iff hinv hstep.code hleft)
    rw [hlevel] at hrest
    exact stepsRun_cons h hS hgo (noReset_of_quiet hfirst) hstep hrest

/-- The first cycle of a run without a reset, by its operation. -/
theorem regsAfter_one (hn : NoReset s 1) (hi : s.regs.S = encode i) :
    regsAfter s 1 = execRegs i s ∧ stateAfter s 1 = s.later 1 (execRegs i s) := by
  have hfirst : regsAfter s 1 = execRegs s.currentInstr s := regsAfter_succ_noReset (n := 0) (hn 0 (by omega))
  rw [currentInstr_eq_iff.2 hi] at hfirst
  exact ⟨hfirst, congrArg (s.later 1) hfirst⟩

/-! ## The forward pass -/

/-- The active entry of R141 is the one that `CatLookup` gives. -/
theorem fwdInit_catLookup (hc : WellFormedConfig s.cfg) {e : Entry} (he : IsCatLookup s.cfg s.regs.idx.toNat e) :
    (execRegs .fwdInit s).eStart.toNat = e.start ∧ (execRegs .fwdInit s).eLen.toNat = e.len := by
  obtain rfl := isCatLookup_unique he (isCatLookup_catLookup hc.nPat.1 s.regs.idx.toNat)
  exact fwdInit_entry hc

/-- FWD_INIT leads to a CHECK with all pairs of its entry left (R141). -/
theorem fwdInit_pairsLeft (hc : WellFormedConfig s.cfg) {e : Entry} (he : IsCatLookup s.cfg s.regs.idx.toNat e) :
    PairsLeft (execRegs .fwdInit s) (e.len / 2) := by
  obtain ⟨_, hl⟩ := fwdInit_catLookup hc he
  have heven := hc.lenEven e (isCatLookup_mem he)
  show (execRegs .fwdInit s).eStart.toNat + 2 * (e.len / 2) =
    (execRegs .fwdInit s).eStart.toNat + (execRegs .fwdInit s).eLen.toNat
  omega

/-- The CHECK after FWD_INIT has all pairs of the entry left, at least one, and no switch request (R141). -/
theorem fwdInit_check (h : Inv s) (hS : s.regs.S = 0x0#4) {e : Entry} (he : IsCatLookup s.cfg s.regs.idx.toNat e)
    (hn : NoReset s 1) : (regsAfter s 1).S = 0x1#4 ∧ (regsAfter s 1).sw = false ∧
      PairsLeft (regsAfter s 1) (e.len / 2) ∧ 0 < e.len / 2 := by
  have hc := inv_config h
  have hmin := hc.lenMin e (isCatLookup_mem he)
  rw [(regsAfter_one (i := .fwdInit) hn hS).1]
  exact ⟨rfl, h.restart hS, fwdInit_pairsLeft hc he, by omega⟩

/-- From there, the `m`-th pair is `P_m` of the entry (R149). -/
theorem fwdInit_pairFrom (hc : WellFormedConfig s.cfg) {e : Entry} (he : IsCatLookup s.cfg s.regs.idx.toNat e)
    (m : Nat) : pairFrom (s.later 1 (execRegs .fwdInit s)) m =
      (s.storeByte (e.start + 2 * m), s.storeByte (e.start + 2 * m + 1)) := by
  obtain ⟨hs, _⟩ := fwdInit_catLookup hc he
  rw [← hs]
  rfl

/-- PASS_END of a forward pass goes to REV_INIT when reversing, and restarts with the switch request cleared when not
(R147). -/
theorem passEnd_forward (hd : s.regs.dir = false) :
    (execRegs .passEnd s).S = (if s.regs.rev then 0xC#4 else 0x0#4) ∧
      (execRegs .passEnd s).sw = (s.regs.rev && s.regs.sw) ∧ (execRegs .passEnd s).rev = s.regs.rev ∧
      SameEntry s.regs (execRegs .passEnd s) := by
  cases hr : s.regs.rev <;> simp [execRegs, State.passEndRule, Regs.reverseFollows, hd, hr, SameEntry, encode]

/-- A forward pass of the entry `e` runs from `s` to the registers `r`, with one step for each level of `ds` (R149). -/
structure ForwardPass (s : State) (e : Entry) (ds : List Nat) (r : Regs s.cfg) : Prop where
  /-- It shows the pairs `P_0`, `P_1`, ... of the entry. -/
  passes  : Passes s .fwdInit (e.len / 2) (fun m => (s.storeByte (e.start + 2 * m), s.storeByte (e.start + 2 * m + 1)))
    ds r
  /-- A reverse pass follows if `rev` is set. -/
  code    : r.S = if r.rev then 0xC#4 else 0x0#4
  /-- The entry is latched. -/
  entry   : r.eStart.toNat = e.start ∧ r.eLen.toNat = e.len
  /-- A switch request outlives the pass only into a reverse pass. -/
  request : r.rev = false ∨ (∀ j < stepsLength s.cfg ds + 3, ¬ SwitchAt s j) → r.sw = false

/-- A switch request at PASS_END was made by a poll of the pass. -/
theorem stepsRun_end_sw (hc : s.cfg.wf = true) {n : Nat} {ds : List Nat} (hn : NoReset s (stepsLength s.cfg ds + 2))
    (hsw : (regsAfter s 1).sw = false) (hrun : StepsRun (stateAfter s 1) n ds)
    (hend : (regsAfter s (stepsLength s.cfg ds + 2)).sw = true) : ∃ j < stepsLength s.cfg ds + 3, SwitchAt s j := by
  have hadd : regsAfter (stateAfter s 1) (stepsLength s.cfg ds + 1) = regsAfter s (stepsLength s.cfg ds + 2) :=
    (regsAfter_add s 1 _).trans (by rw [Nat.add_comm])
  have hiff := stepsRun_sw (s := stateAfter s 1) hc
    (noReset_stateAfter hn (by simp only [stateAfter_cfg]; omega)) hrun
  obtain ⟨j, hj, hat⟩ := (hiff.1 (hadd ▸ hend)).resolve_left (by simp [hsw])
  have hj' : j < stepsLength s.cfg ds + 1 := hj
  exact ⟨1 + j, by omega, (switchAt_stateAfter hc 1 j).1 hat⟩

/-- FWD_INIT, the steps from its CHECK on, and PASS_END are a forward pass. -/
theorem forwardPass_of_stepsRun (h : Inv s) (hS : s.regs.S = 0x0#4) {e : Entry}
    (he : IsCatLookup s.cfg s.regs.idx.toNat e) {ds : List Nat} (hn : NoReset s (stepsLength s.cfg ds + 3))
    (hrun : StepsRun (stateAfter s 1) (e.len / 2) ds) :
    ForwardPass s e ds (regsAfter s (stepsLength s.cfg ds + 3)) := by
  have hc := inv_config h
  have hn2 : NoReset s (stepsLength s.cfg ds + 2) := noReset_mono hn (by omega)
  obtain ⟨hfirst, hstate⟩ := regsAfter_one (i := .fwdInit) (noReset_mono hn (by omega)) hS
  have hsw : (regsAfter s 1).sw = false := by rw [hfirst]; exact h.restart hS
  obtain ⟨hs, hl⟩ := fwdInit_catLookup hc he
  obtain ⟨hcode, hd, hs', hl'⟩ := stepsRun_end hrun
  have hlast : regsAfter s (stepsLength s.cfg ds + 3) = execRegs .passEnd (stateAfter s (stepsLength s.cfg ds + 2)) :=
    regsAfter_succ_of (hn _ (by omega)) hcode
  obtain ⟨hS', hsw', hrev, _, hs'', hl''⟩ :=
    passEnd_forward (s := stateAfter s (stepsLength s.cfg ds + 2)) (hd.trans (by rw [hfirst]; rfl))
  exact {
    passes := passes_of_stepsRun h.config (currentInstr_eq_iff (i := .fwdInit).2 hS) (.inl rfl) hn2 hsw hrun
      fun m _ => by rw [hstate]; exact fwdInit_pairFrom hc he m
    code := by rw [hlast, hrev]; exact hS'
    entry := by
      rw [hlast, hs'', hl'', stateAfter_regs, hs', hl', hfirst]
      exact ⟨hs, hl⟩
    request := fun hquiet => by
      rw [hlast, hrev] at hquiet
      rw [hlast, hsw', Bool.and_eq_false_iff]
      refine hquiet.imp id fun hno => Bool.eq_false_iff.2 fun hend => ?_
      obtain ⟨j, hj, hat⟩ := stepsRun_end_sw h.config hn2 hsw hrun hend
      exact hno j hj hat }

/-- Settles O48: FWD_INIT, the steps of the pairs, of which there is at least one, PASS_END. -/
theorem forwardPassShowsItsPairsWhateverTheButtons : Obligations.ForwardPassShowsItsPairsWhateverTheButtons := by
  intro s e h hS he n hn
  have hn1 : NoReset (stateAfter s 1) (n * (39 + s.cfg.delayWrap * s.cfg.tickCycles) + 1) :=
    noReset_stateAfter hn (by omega)
  obtain ⟨hcheck, hsw, hleft, hpos⟩ := fwdInit_check h hS he (noReset_mono hn (by omega))
  obtain ⟨ds, hrun⟩ := stepsRun_exists (inv_stateAfter h 1) hcheck hleft hn1
  have hlen : stepsLength s.cfg ds ≤ n * (39 + s.cfg.delayWrap * s.cfg.tickCycles) :=
    stepsLength_le hrun.steps hrun.levels
  have hpass := forwardPass_of_stepsRun h hS he (noReset_mono hn (by omega)) hrun
  have hsome := stepsRun_ne_nil (inv_stateAfter h 1) hcheck hleft hpos hsw (noReset_mono hn1 (by omega)) hrun
  obtain ⟨hs, hl⟩ := hpass.entry
  exact ⟨ds, _, hpass.passes, List.length_pos_of_ne_nil hsome, hpass.code, hs, hl, hpass.request⟩

/-! ## Passes without button events -/

/-- The steps of a quiet pass, from the CHECK after its first operation on. -/
theorem stepsRun_of_quietPass (h : Inv s) (hsw : s.regs.sw = false) {n : Nat} (hcheck : (regsAfter s 1).S = 0x1#4)
    (hleft : PairsLeft (regsAfter s 1) n) (hq : Quiet s (n * stepLength s.cfg s.regs.delay.toNat + 3)) :
    StepsRun (stateAfter s 1) n (List.replicate n s.regs.delay.toNat) := by
  obtain ⟨_, _, hdelay, hsw'⟩ := regsAfter_samePlayback h (quiet_mono hq (show 1 ≤ _ by omega)) hsw
  have hlevel : (stateAfter s 1).regs.delay.toNat = s.regs.delay.toNat := congrArg BitVec.toNat hdelay
  have hrun := stepsRun_of_quiet (inv_stateAfter h 1) hcheck hleft (hsw'.trans hsw)
    (by rw [hlevel]; exact quiet_stateAfter h hq (by simp only [stateAfter_cfg]; omega))
  rwa [hlevel] at hrun

/-- Settles O45: the forward pass whose steps all have the level in force as their delay. -/
theorem forwardPassShowsEveryPairOnce : Obligations.ForwardPassShowsEveryPairOnce := by
  intro s e h hS he n len hq
  have hsw := h.restart hS
  obtain ⟨hcheck, _, hleft, _⟩ := fwdInit_check h hS he (noReset_mono (noReset_of_quiet hq) (by omega))
  have hrun := stepsRun_of_quietPass h hsw hcheck hleft hq
  have hlen : stepsLength s.cfg (List.replicate n s.regs.delay.toNat) + 3 = len := by rw [stepsLength_replicate]; rfl
  have hpass := forwardPass_of_stepsRun h hS he (by rw [hlen]; exact noReset_of_quiet hq) hrun
  rw [hlen] at hpass
  have hkept := regsAfter_samePlayback h hq hsw
  have hrev : (regsAfter s len).rev = s.regs.rev := hkept.2.1
  obtain ⟨hs, hl⟩ := hpass.entry
  have hshown := hpass.passes.shown
  rw [hlen, List.length_replicate] at hshown
  exact ⟨_, cycles_eq h.config len, hrev ▸ hpass.code, hs, hl, hkept, hshown⟩

/-- REV_INIT, the steps from its CHECK on, and PASS_END are a reverse pass that keeps the entry (R150). -/
theorem reversePass_of_stepsRun (h : Inv s) (hS : s.regs.S = 0xC#4) (hsw : s.regs.sw = false) {ds : List Nat}
    (hn : NoReset s (stepsLength s.cfg ds + 3)) (hrun : StepsRun (stateAfter s 1) (s.regs.eLen.toNat / 2 - 2) ds) :
    Passes s .revInit (s.regs.eLen.toNat / 2 - 2)
        (fun j => (s.storeByte (s.regs.eStart.toNat + 2 * (s.regs.eLen.toNat / 2 - 2 - j)),
          s.storeByte (s.regs.eStart.toNat + 2 * (s.regs.eLen.toNat / 2 - 2 - j) + 1)))
        ds (regsAfter s (stepsLength s.cfg ds + 3)) ∧
      (regsAfter s (stepsLength s.cfg ds + 3)).S = 0x0#4 ∧ SameEntry (regsAfter s 1)
        (regsAfter s (stepsLength s.cfg ds + 3)) := by
  obtain ⟨hfirst, hstate⟩ := regsAfter_one (i := .revInit) (noReset_mono hn (by omega)) hS
  obtain ⟨hcode, hentry⟩ := stepsRun_end hrun
  have hlast : regsAfter s (stepsLength s.cfg ds + 3) = execRegs .passEnd (stateAfter s (stepsLength s.cfg ds + 2)) :=
    regsAfter_succ_of (hn _ (by omega)) hcode
  obtain ⟨hS', _, hentry'⟩ := passEnd_reverse (s := stateAfter s (stepsLength s.cfg ds + 2))
    (hentry.1.trans (by rw [hfirst]; rfl))
  refine ⟨passes_of_stepsRun h.config (currentInstr_eq_iff (i := .revInit).2 hS) (.inr rfl)
    (noReset_mono hn (by omega)) (by rw [hfirst]; exact hsw) hrun fun m hm => ?_, ?_, ?_⟩
  · rw [hstate]
    exact revInit_pairFrom h hS hm
  · rw [hlast]
    exact hS'
  · rw [hlast]
    exact hentry.trans hentry'

/-- Settles O46: the reverse pass whose steps all have the level in force as their delay. -/
theorem reversePassShowsTheInnerPairsBackward : Obligations.ReversePassShowsTheInnerPairsBackward := by
  intro s h hS hsw n len hq
  obtain ⟨hfirst, _⟩ := regsAfter_one (i := .revInit) (noReset_mono (noReset_of_quiet hq) (by omega)) hS
  have hrun : StepsRun (stateAfter s 1) (n - 2) (List.replicate (n - 2) s.regs.delay.toNat) :=
    stepsRun_of_quietPass h hsw (by rw [hfirst]; rfl) (by rw [hfirst]; exact revInit_pairsLeft h hS) hq
  have hlen : stepsLength s.cfg (List.replicate (n - 2) s.regs.delay.toNat) + 3 = len := by
    rw [stepsLength_replicate]; rfl
  have hpass := reversePass_of_stepsRun h hS hsw (by rw [hlen]; exact noReset_of_quiet hq) hrun
  rw [hlen, hfirst] at hpass
  obtain ⟨hpasses, hcode, _, hs, hl⟩ := hpass
  have hshown := hpasses.shown
  rw [hlen, List.length_replicate] at hshown
  exact ⟨_, cycles_eq h.config len, hcode, regsAfter_samePlayback h hq hsw, hs, hl, hshown⟩

/-! ## The cycles after a reset -/

/-- `RESET_STATE` holds the base level (R44). -/
theorem reset_delay_toNat (hc : WellFormedConfig s.cfg) (hr : IsResetState s.regs) :
    s.regs.delay.toNat = s.cfg.delayBase := by
  obtain ⟨_, _, _, _, _, _, _, _, _, _, _, _, hdelay, _⟩ := hr
  obtain ⟨_, hwrap, _⟩ := hc.delay
  have hreg := hc.delayReg
  rw [hdelay]
  exact ofNat_toNat_of_lt (by omega)

/-- The trace of a quiet run from FWD_INIT to the CHECK after its first step. -/
theorem trace_firstStep (h : Inv s) (hS : s.regs.S = 0x0#4)
    (hq : Quiet s (1 + stepLength s.cfg s.regs.delay.toNat + 1)) :
    trace (1 + stepLength s.cfg s.regs.delay.toNat + 1) s =
      .fwdInit :: stepTrace (s.regs.delay.toNat * s.cfg.tickCycles) ++ [.check] := by
  obtain ⟨hcheck, hsw, hleft, hpos⟩ := fwdInit_check h hS (isCatLookup_catLookup (inv_config h).nPat.1 _)
    (noReset_mono (noReset_of_quiet hq) (by omega))
  obtain ⟨_, _, hdelay, _⟩ := regsAfter_samePlayback h (quiet_mono hq (show 1 ≤ _ by omega)) (h.restart hS)
  have hlevel : (stateAfter s 1).regs.delay.toNat = s.regs.delay.toNat := congrArg BitVec.toNat hdelay
  have hgo : (stateAfter s 1).regs.go = true := (go_iff (inv_stateAfter h 1) hcheck hleft).2 ⟨hpos, hsw⟩
  have hstep := stepRun_of_quiet (inv_stateAfter h 1) hcheck hgo
    (quiet_stateAfter h hq (by rw [hlevel]; exact Nat.le_succ _))
  rw [hlevel] at hstep
  have hops : trace (stepLength s.cfg s.regs.delay.toNat) (stateAfter s 1) = _ := hstep.operations
  have hnext : (regsAfter (stateAfter s 1) (stepLength s.cfg s.regs.delay.toNat)).S = 0x1#4 := hstep.code
  rw [regsAfter_add] at hnext
  have hlast : (stateAfter s (1 + stepLength s.cfg s.regs.delay.toNat)).currentInstr = .check :=
    currentInstr_eq_iff.2 hnext
  have hinit : s.currentInstr = .fwdInit := currentInstr_eq_iff.2 hS
  rw [trace_succ h.config, trace_split h.config, trace_one h.config, hops, hlast, hinit]
  rfl

/-- Settles O47: `RESET_STATE` holds the base level, and its first step has that level as its delay. -/
theorem cyclesAfterResetAreAsTabled : Obligations.CyclesAfterResetAreAsTabled := by
  intro s hc hm hr hq
  have hdelay := reset_delay_toNat ((wf_iff _).1 hc) hr
  have hlen : 41 + s.cfg.delayBase * s.cfg.tickCycles = 1 + stepLength s.cfg s.regs.delay.toNat + 1 := by
    rw [stepLength, hdelay]; omega
  rw [hlen] at hq ⊢
  rw [trace_firstStep (inv_of_isResetState hc hm hr) hr.1 hq, hdelay]

end Sys2Proof.Proofs
end

section
/-! PROOFS. The operations of the serializer one by one: their outputs, what they are reached from, what they write and
leave alone; and the first frame after a reset. -/

namespace Sys2Proof.Proofs

open Sys2Proof.Machine Sys2Proof.Laws

variable {s : State} {i : Instr}

/-! ## The first frame after a reset -/

/-- The CHECK after FWD_INIT goes on when no switch is requested: the entry holds at least one pair (R8, R142). -/
theorem fwdInit_go (hc : WellFormedConfig s.cfg) {e : Entry} (he : IsCatLookup s.cfg s.regs.idx.toNat e)
    (hsw : s.regs.sw = false) : (execRegs .fwdInit s).go = true := by
  obtain ⟨hs, hl⟩ := fwdInit_catLookup hc he
  have hmin := hc.lenMin e (isCatLookup_mem he)
  have hfit := entry_lt_two_pow_cw hc (isCatLookup_mem he)
  have hE : (execRegs .fwdInit s).rangeEnd.toNat = _ := rangeEnd_toNat (by rw [hs, hl]; exact hfit)
  have hi : (execRegs .fwdInit s).i.toNat = (execRegs .fwdInit s).eStart.toNat := rfl
  exact (go_forward rfl).2 ⟨by omega, hsw⟩

/-- The pair at the offset that FWD_INIT sets is the first of the active entry (R141). -/
theorem fwdInit_pair (hc : WellFormedConfig s.cfg) {e : Entry} (he : IsCatLookup s.cfg s.regs.idx.toNat e) :
    s.memRead (execRegs .fwdInit s).aFirst = s.storeByte e.start ∧
      s.memRead (execRegs .fwdInit s).aSecond = s.storeByte (e.start + 1) := by
  have hi : (execRegs .fwdInit s).i.toNat = e.start := (fwdInit_catLookup hc he).1
  have hmin := hc.lenMin e (isCatLookup_mem he)
  have hstore := hc.inStore e (isCatLookup_mem he)
  have hfit := entry_lt_two_pow_cw hc (isCatLookup_mem he)
  obtain ⟨ha, hb⟩ := pair_forward (r := execRegs .fwdInit s) hc rfl (by omega)
  rw [memRead_eq hc (by omega), memRead_eq hc (by omega), ha, hb, hi]
  exact ⟨rfl, rfl⟩

/-- From FWD_INIT without a switch request, cycle 2 is LOAD_A's, for the first pair of the active entry (R192). -/
theorem fwdInit_toLoadA (hc : s.cfg.wf = true) (hn : NoReset s 2) (hS : s.regs.S = 0x0#4) (hsw : s.regs.sw = false)
    {e : Entry} (he : IsCatLookup s.cfg s.regs.idx.toNat e) :
    trace 2 s = [.fwdInit, .check] ∧ (regsAfter s 2).S = 0x2#4 ∧
      SameScan (execRegs .fwdInit s) (regsAfter s 2) := by
  have hw := (wf_iff _).1 hc
  have hfirst : regsAfter s 1 = execRegs .fwdInit s := (regsAfter_one (i := .fwdInit) (noReset_mono hn (by omega)) hS).1
  have hcheck : (regsAfter s 1).S = 0x1#4 := by rw [hfirst]; rfl
  have hgo := check_goes (s := stateAfter s 1) (noReset_stateAfter hn (by omega)) hcheck
    (by rw [stateAfter_regs, hfirst]; exact fwdInit_go hw he hsw)
  rw [regsAfter_add, stateAfter_regs, hfirst] at hgo
  refine ⟨?_, hgo⟩
  rw [trace_succ hc, trace_one hc, currentInstr_eq_iff (i := .fwdInit).2 hS,
    currentInstr_eq_iff (s := stateAfter s 1) (i := .check).2 hcheck]
  rfl

/-- Settles O15: FWD_INIT and CHECK record nothing, and the 35 cycles from LOAD_A on report the frame of 16 new bits. -/
theorem firstFrameAfterResetIsTheFirstPair : Obligations.FirstFrameAfterResetIsTheFirstPair := by
  intro s e hc hr hn he o
  have hw := (wf_iff _).1 hc
  obtain ⟨hS, _, _, _, _, _, _, _, _, _, hidx, _, _, hsw, _⟩ := hr
  have hentry : IsCatLookup s.cfg s.regs.idx.toNat e := by simp [IsCatLookup, hidx, he]
  obtain ⟨hops, hA, hscan⟩ := fwdInit_toLoadA hc (noReset_mono hn (by omega)) hS hsw hentry
  obtain ⟨hfirst, hsecond⟩ := pair_congr hscan
  obtain ⟨hbyte, hbyte'⟩ := fwdInit_pair hw hentry
  have hidle := watch_idle hc o (n := 1) (by simp [hops])
  have hpair := watch_pair (s := stateAfter s 2) hc (noReset_stateAfter hn (by omega)) hA (watch o s 2)
  show (watch o s (2 + 35)).frames = _
  rw [watch_split hc, hpair, hidle]
  simp [hfirst, hsecond, hbyte, hbyte']

/-! ## What the serializer's operations write -/

/-- The serializer's operations leave scan, delay counter, playback state and latches alone (R100 to R104). -/
theorem execRegs_serializer_frame (h2 : 0x2 ≤ (encode i).toNat) (h6 : (encode i).toNat ≤ 0x6) :
    SameScan s.regs (execRegs i s) ∧ SameTimer s.regs (execRegs i s) ∧ SamePlayback s.regs (execRegs i s) ∧
      SameLatches s.regs (execRegs i s) := by
  cases i with
  | loadA | loadB | shiftLo | shiftHi | latch =>
    exact ⟨⟨rfl, rfl, rfl, rfl⟩, ⟨rfl, rfl⟩, ⟨rfl, rfl, rfl, rfl⟩, rfl, rfl⟩
  | _ => simp [encode] at h2 h6

/-- A legal operation completes with the registers of `execRegs` (R120, R173). -/
theorem completes_of {P : Regs s.cfg → Prop} (hl : (encode i).toNat ≤ 0xC) (hP : P (execRegs i s)) :
    Completes i s P :=
  ⟨execRegs i s, exec_eq i s, State.later_storeByte s 1 _, execRegs_synchronised hl, hP⟩

/-- The successor of SHIFT_HI (R103). -/
theorem execRegs_shiftHi_S (s : State) : (execRegs .shiftHi s).S =
    if s.regs.bitcnt = 7 then (if s.regs.k then 0x6#4 else 0x3#4) else 0x4#4 := by
  have hcode : (execRegs .shiftHi s).S = encode s.regs.afterBit := rfl
  simp only [hcode, Regs.afterBit, Regs.lastBit, beq_iff_eq]
  split_ifs <;> rfl

/-! ## What the serializer's operations are reached from -/

/-- What held of every state whose step leaves code `w` held whenever `w` was reached. -/
theorem reachedOnlyFrom_of {w : Code} {P : State → Prop} (h : ∀ s, (nextRegs s).S = w → P s) : ReachedOnlyFrom w P := by
  intro s r _ hst hS
  obtain ⟨_, hr⟩ := step_next hst
  rw [State.later_inj] at hr
  exact h s (hr ▸ hS)

/-- A code other than FWD_INIT's that only the operation `i` leads to was left by `i`. -/
theorem nextRegs_of_onlyPredecessor {w : Code} (hw : w ≠ 0x0#4) (honly : ∀ j, w ∈ successors j → j = i)
    (h : (nextRegs s).S = w) : s.regs.S = encode i ∧ nextRegs s = execRegs i s := by
  have hne : (nextRegs s).S ≠ 0x0#4 := h ▸ hw
  have hop := honly _ (h ▸ nextRegs_S_mem hne)
  exact ⟨(encode_decodeCode s.regs.S).symm.trans (congrArg encode hop), hop ▸ nextRegs_of_ne_fwdInit hne⟩

/-- What leads to LOAD_A. -/
theorem eq_of_loadA_mem_successors (h : 0x2#4 ∈ successors i) : i = .check := by
  revert h; cases i <;> decide

/-- LOAD_A is reached from CHECK (R100). -/
theorem check_of_next_loadA (h : (nextRegs s).S = 0x2#4) : s.regs.S = 0x1#4 :=
  (nextRegs_of_onlyPredecessor (by decide) (fun _ => eq_of_loadA_mem_successors) h).1

/-- SHIFT_HI leaves for LOAD_B or LATCH at the last bit alone, by `k` (R103). -/
theorem lastBit_of_shiftHi_S {b : Bool} (h : (execRegs .shiftHi s).S = if b then 0x6#4 else 0x3#4) :
    s.regs.k = b ∧ s.regs.bitcnt = 7 := by
  rw [execRegs_shiftHi_S] at h
  by_cases hlast : s.regs.bitcnt = 7
  · refine ⟨?_, hlast⟩
    rw [if_pos hlast] at h
    revert h
    cases s.regs.k <;> cases b <;> decide
  · rw [if_neg hlast] at h
    cases b <;> simp at h

/-- LOAD_B is reached from the last bit of a first byte (R101). -/
theorem lastBit_of_next_loadB (h : (nextRegs s).S = 0x3#4) :
    s.regs.S = 0x5#4 ∧ s.regs.k = false ∧ s.regs.bitcnt = 7 := by
  obtain ⟨hS, hr⟩ := nextRegs_of_onlyPredecessor (by decide) (fun _ => eq_of_loadB_mem_successors) h
  exact ⟨hS, lastBit_of_shiftHi_S (hr ▸ h)⟩

/-- LATCH is reached from the last bit of a second byte (R104). -/
theorem lastBit_of_next_latch (h : (nextRegs s).S = 0x6#4) :
    s.regs.S = 0x5#4 ∧ s.regs.k = true ∧ s.regs.bitcnt = 7 := by
  obtain ⟨hS, hr⟩ := nextRegs_of_onlyPredecessor (by decide) (fun _ => eq_of_latch_mem_successors) h
  exact ⟨hS, lastBit_of_shiftHi_S (hr ▸ h)⟩

/-! ## The levels of the serial lines -/

/-- R105's idle line. -/
theorem serData_idle (h : Inv s) (hS : ¬ Shifting s.regs.S) : s.outputs.serData = false :=
  (byteGoesOutLeastSignificantBitFirst.2 s h hS).2

/-- In SHIFT_LO and SHIFT_HI the bit of the current byte that `bitcnt` selects is on the line (R102, INV10, INV11). -/
theorem serData_shifting (h : Inv s) (hS : Shifting s.regs.S) :
    s.outputs.serData = s.currentByte.getLsbD s.regs.bitcnt.toNat := by
  simp [State.outputs, h.shifting hS]

/-! ## The operations one by one -/

/-- Settles O8: CHECK alone leads to LOAD_A, and the address is one of O18. -/
theorem loadASendsTheFirstByte : Obligations.LoadASendsTheFirstByte := by
  intro s aFirst
  refine ⟨decodeCode_encode .loadA, fun hS => ?_, fun h hS => ?_, reachedOnlyFrom_of fun _ => check_of_next_loadA,
    completes_of (by decide) ⟨rfl, rfl, rfl, rfl, execRegs_serializer_frame (by decide) (by decide)⟩⟩
  · simp [State.outputs, Regs.memAddr, hS, encode, aFirst, Regs.aFirst]
  · obtain ⟨hlo, hhi, _⟩ := sampledAddressesLieInTheLatchedEntry s h (.inl hS)
    exact ⟨serData_idle h (by simp [Shifting, hS]), hlo, hhi⟩

/-- Settles O9: SHIFT_HI alone leads to LOAD_B, at the last bit of a first byte. -/
theorem loadBSendsTheSecondByte : Obligations.LoadBSendsTheSecondByte := by
  intro s aSecond
  refine ⟨decodeCode_encode .loadB, fun hS => ?_, fun h hS => serData_idle h (by simp [Shifting, hS]),
    reachedOnlyFrom_of fun _ => lastBit_of_next_loadB,
    completes_of (by decide) ⟨rfl, rfl, rfl, rfl, execRegs_serializer_frame (by decide) (by decide)⟩⟩
  simp [State.outputs, Regs.memAddr, hS, encode, aSecond, Regs.aSecond]

/-- Settles O10: SHIFT_LO writes its successor alone, and the invariants name the bit. -/
theorem shiftLoHoldsTheBitWithTheClockLow : Obligations.ShiftLoHoldsTheBitWithTheClockLow := by
  intro s
  refine ⟨decodeCode_encode .shiftLo, fun hS => ⟨rfl, lines_low (by simp [hS]) (by simp [hS])⟩,
    fun h hS => serData_shifting h (.inl hS), completes_of (by decide) ?_⟩
  obtain ⟨hscan, hrest⟩ := execRegs_serializer_frame (s := s) (i := .shiftLo) (by decide) (by decide)
  exact ⟨rfl, hscan, ⟨rfl, rfl, rfl⟩, hrest⟩

/-- Settles O11: the shift bit by bit, the successor by `bitcnt` and `k`, and the bit that SHIFT_LO held. -/
theorem shiftHiClocksAndShifts : Obligations.ShiftHiClocksAndShifts := by
  intro s
  refine ⟨decodeCode_encode .shiftHi, fun hS => ⟨rfl, serClk_iff.2 hS, ?_⟩, fun r _ hst hS => ?_, fun h hS hlast => ?_,
    completes_of (by decide) ⟨fun j hj => ?_, ?_, ?_, execRegs_shiftHi_S s, rfl,
      execRegs_serializer_frame (by decide) (by decide)⟩⟩
  · exact Bool.eq_false_iff.2 (by simp [latch_iff, hS])
  · obtain ⟨_, hr⟩ := step_next hst
    rw [State.later_inj] at hr
    obtain ⟨hlo, hshreg⟩ := shiftLo_of_next_shiftHi (hr ▸ hS)
    exact ⟨hlo, by simp [State.outputs, hr, hshreg]⟩
  · exact execRegs_idle h (i := .shiftHi) hS fun hshift => by
      simpa [Regs.lastBit, hlast] using shifting_execRegs_shiftHi.1 hshift
  · show (s.regs.shreg >>> 1).getLsbD j = _
    rw [BitVec.getLsbD_ushiftRight, Nat.add_comm]
  · show (s.regs.shreg >>> 1).getLsbD 7 = false
    rw [BitVec.getLsbD_ushiftRight, BitVec.getLsbD_of_ge _ _ le_rfl]
  · exact BitVec.toNat_add s.regs.bitcnt 1

/-- Settles O12: SHIFT_HI alone leads to LATCH, at the last bit of a second byte. -/
theorem latchPulsesOnce : Obligations.LatchPulsesOnce := by
  intro s
  refine ⟨decodeCode_encode .latch, fun hS => ⟨latch_iff.2 hS, ?_⟩,
    fun h hS => serData_idle h (by simp [Shifting, hS]), reachedOnlyFrom_of fun _ => lastBit_of_next_latch,
    completes_of (by decide) ?_⟩
  · exact Bool.eq_false_iff.2 (by simp [serClk_iff, hS])
  · obtain ⟨hscan, hrest⟩ := execRegs_serializer_frame (s := s) (i := .latch) (by decide) (by decide)
    exact ⟨rfl, hscan, ⟨rfl, rfl, rfl⟩, hrest⟩

end Sys2Proof.Proofs
end

section
/-! PROOFS. The debouncers: what the port levels reach, how old a poll's samples are, what the actions and a sequence of
polls do, and the press at an edge. -/

namespace Sys2Proof.Proofs

open Sys2Proof.Machine Sys2Proof.Laws

variable {c : Config} {s : State} {i : Instr}

/-! ## What the port levels and the first stages reach -/

/-- The registers with other first stages of the synchronisers. -/
def withFirstStages (r : Regs c) (a b : Bool) : Regs c := { r with spdS1 := a, patS1 := b }

/-- The pattern action does not read the first stages (R125). -/
theorem patternAction_withFirstStages (r : Regs c) (a b : Bool) :
    (withFirstStages r a b).patternAction = withFirstStages r.patternAction a b := by
  have hrev : (withFirstStages r a b).rev = r.rev := rfl
  simp only [Regs.patternAction, hrev]
  split <;> rfl

/-- The pattern debouncer's part of a poll does not read the first stages (R121). -/
theorem pollPattern_withFirstStages (r : Regs c) (a b : Bool) :
    (withFirstStages r a b).pollPattern = withFirstStages r.pollPattern a b := by
  have hfires : (withFirstStages r a b).firePat = r.firePat := rfl
  have hsample : (withFirstStages r a b).patS2 = r.patS2 := rfl
  simp only [Regs.pollPattern, hfires, hsample]
  split
  · exact patternAction_withFirstStages { r with patLatch := true } a b
  · split <;> rfl

/-- A poll reads the second stages alone (R121). -/
theorem poll_withFirstStages (r : Regs c) (a b : Bool) :
    (withFirstStages r a b).poll = withFirstStages r.poll a b := by
  have hfires : (withFirstStages r a b).fireSpd = r.fireSpd := rfl
  have hsample : (withFirstStages r a b).spdS2 = r.spdS2 := rfl
  simp only [Regs.poll, hfires, hsample]
  split
  · rfl
  · split
    · exact pollPattern_withFirstStages r a b
    · exact pollPattern_withFirstStages { r with spdLatch := false } a b

/-- DELAY does not read the first stages (R145). -/
theorem delayRule_withFirstStages (s : State) (a b : Bool) :
    ({ s with regs := withFirstStages s.regs a b } : State).delayRule = withFirstStages s.delayRule a b := by
  have hruns : (withFirstStages s.regs a b).tickRuns = s.regs.tickRuns := rfl
  have hlast : (withFirstStages s.regs a b).lastTick = s.regs.lastTick := rfl
  simp only [State.delayRule, hruns, hlast]
  split
  · rfl
  · split <;> rfl

/-- PASS_END does not read the first stages (R147). -/
theorem passEndRule_withFirstStages (s : State) (a b : Bool) :
    ({ s with regs := withFirstStages s.regs a b } : State).passEndRule = withFirstStages s.passEndRule a b := by
  have hfollows : (withFirstStages s.regs a b).reverseFollows = s.regs.reverseFollows := rfl
  simp only [State.passEndRule, hfollows]
  split <;> rfl

/-- A legal operation moves the first stages into the second and reads them for nothing else (R120). -/
theorem execRegs_withFirstStages (hl : (encode i).toNat ≤ 0xC) (a b : Bool) :
    execRegs i { s with regs := withFirstStages s.regs a b } = { execRegs i s with spdS2 := a, patS2 := b } := by
  have hpoll := poll_withFirstStages s.regs a b
  cases i with
  | poll1 => exact congrArg (fun r => ({ r with S := encode .poll2 } : Regs s.cfg).synchronise s.portIn) hpoll
  | poll2 => exact congrArg (fun r : Regs s.cfg => r.loadDelayCounter.synchronise s.portIn) hpoll
  | poll3 =>
    exact congrArg
      (fun r => ({ r with i := s.regs.nextOffset, S := encode .check } : Regs s.cfg).synchronise s.portIn) hpoll
  | delay => exact congrArg (Regs.synchronise · s.portIn) (delayRule_withFirstStages s a b)
  | passEnd => exact congrArg (Regs.synchronise · s.portIn) (passEndRule_withFirstStages s a b)
  | reservedD | reservedE | reservedF => simp [encode] at hl
  | _ => rfl

/-- The port levels of its edge reach nothing but the first stages (R120). -/
theorem execRegs_withInputs_firstStages (hl : (encode i).toNat ≤ 0xC) (s : State) (xs : List PortIn) :
    withFirstStages (execRegs i (withInputs s xs)) (execRegs i s).spdS1 (execRegs i s).patS1 = execRegs i s := by
  cases i with
  | reservedD | reservedE | reservedF => simp [encode] at hl
  | _ => rfl

/-- The operations other than the reserved ones have the legal codes (R71). -/
theorem encode_legal (hD : i ≠ .reservedD) (hE : i ≠ .reservedE) (hF : i ≠ .reservedF) : (encode i).toNat ≤ 0xC := by
  revert hD hE hF; cases i <;> decide

/-- A reset edge and a step from a reserved code load `RESET_STATE` (R74, R190). -/
theorem nextRegs_eq_reset (h : s.portIn.rst = true ∨ 0xD ≤ s.regs.S.toNat) : nextRegs s = Regs.reset s.cfg := by
  rcases h with hr | hS
  · exact if_pos hr
  · have hcodes : ∀ w : Code, 0xD ≤ w.toNat → w = 0xD#4 ∨ w = 0xE#4 ∨ w = 0xF#4 := by decide
    exact nextRegs_reserved (hcodes _ hS)

/-- Settles O22: `RESET_STATE` has all stages low; every other edge moves the stages by the synchroniser rule, and no
state rule reads the port levels or the first stages. -/
theorem buttonsReachOnlyTheFirstStages : Obligations.ButtonsReachOnlyTheFirstStages := by
  refine ⟨fun s hc h => ⟨nextRegs s, step_eq hc, ?_⟩, fun s i xs hD hE hF => ?_⟩
  · rw [nextRegs_eq_reset h]
    exact ⟨rfl, rfl, rfl, rfl⟩
  · have hl := encode_legal hD hE hF
    refine ⟨execRegs i s, execRegs i (withInputs s xs), exec_eq i s, exec_eq i (withInputs s xs),
      execRegs_synchronised hl, execRegs_withInputs_firstStages hl s xs, fun a b => ?_⟩
    exact (exec_eq i { s with regs := withFirstStages s.regs a b }).trans
      (congrArg (fun r : Regs s.cfg => Host.Outcome.next (s.later 1 r)) (execRegs_withFirstStages hl a b))

/-! ## The age of a poll's samples -/

/-- A step without a reset from a legal code runs the synchroniser rule (R120). -/
theorem nextRegs_synchronised (hr : s.portIn.rst = false) (hS : s.regs.S.toNat ≤ 0xC) :
    Synchronised s.regs s.portIn (nextRegs s) := by
  rw [nextRegs_of hr rfl]
  exact execRegs_synchronised (by rwa [encode_decodeCode])

/-- Settles O23: the first edge takes the port levels into the first stages, the second takes those into the second
stages; the code between the two edges is legal. -/
theorem samplesAreTwoCyclesOld : Obligations.SamplesAreTwoCyclesOld := by
  intro s hc hn hS
  obtain ⟨hspd1, _, hpat1, _⟩ := nextRegs_synchronised (hn 0 (by omega)) hS
  obtain ⟨_, hspd2, _, hpat2⟩ := nextRegs_synchronised (s := stateAfter s 1)
    (by rw [stateAfter_portIn]; exact hn 1 (by omega)) (nextRegs_legal s)
  exact ⟨regsAfter s 2, cycles_eq hc 2, hspd2.trans hspd1, hpat2.trans hpat1⟩

/-! ## Pattern actions in sequence -/

/-- Inside the catalog, an advance is a step modulo `N_PAT` (R125). -/
theorem idxAfterAdvance_eq_mod (hc : WellFormedConfig c) {r : Regs c} (h : r.idx.toNat < c.nPat) :
    idxAfterAdvance r = (r.idx.toNat + 1) % c.nPat := by
  have hfit := hc.nPat.2
  unfold idxAfterAdvance
  split
  next hle => rw [show r.idx.toNat + 1 = c.nPat by omega, Nat.mod_self]
  next hlt => rw [Nat.mod_eq_of_lt (by omega), Nat.mod_eq_of_lt (by omega)]

/-- A pattern action while not reversing starts reversing and leaves the pattern alone (R125). -/
theorem patternAction_of_forward {r : Regs c} (h : r.rev = false) :
    r.patternAction.rev = true ∧ r.patternAction.idx = r.idx ∧ r.patternAction.sw = r.sw := by
  simpa [PatternActed, h] using patternAction_acted r

/-- A pattern action while reversing stops reversing, advances the pattern and requests a switch (R125). -/
theorem patternAction_of_reversing {r : Regs c} (h : r.rev = true) :
    r.patternAction.rev = false ∧ r.patternAction.idx.toNat = idxAfterAdvance r ∧ r.patternAction.sw = true := by
  simpa [PatternActed, h] using patternAction_acted r

/-- `k` pattern actions from a state that does not reverse: every second one advances (R130). -/
theorem patternAction_iterate (hc : WellFormedConfig c) {r : Regs c} (hrev : r.rev = false)
    (hidx : r.idx.toNat < c.nPat) (k : Nat) :
    ((Regs.patternAction)^[k] r).rev = decide (k % 2 = 1) ∧
      ((Regs.patternAction)^[k] r).idx.toNat = (r.idx.toNat + k / 2) % c.nPat ∧
      (2 ≤ k → ((Regs.patternAction)^[k] r).sw = true) := by
  induction k with
  | zero => exact ⟨hrev, (Nat.mod_eq_of_lt hidx).symm, fun h => by omega⟩
  | succ k ih =>
    obtain ⟨hrevk, hidxk, hswk⟩ := ih
    rw [Function.iterate_succ_apply']
    rcases Nat.mod_two_eq_zero_or_one k with hk | hk
    · obtain ⟨hrev', hidx', hsw'⟩ := patternAction_of_forward (hrevk.trans (by simp [hk]))
      refine ⟨hrev'.trans (decide_eq_true (by omega)).symm, ?_, fun h2 => hsw'.trans (hswk (by omega))⟩
      rw [hidx', hidxk, show (k + 1) / 2 = k / 2 by omega]
    · obtain ⟨hrev', hidx', hsw'⟩ := patternAction_of_reversing (hrevk.trans (by simp [hk]))
      refine ⟨hrev'.trans (decide_eq_false (by omega)).symm, ?_, fun _ => hsw'⟩
      rw [hidx', idxAfterAdvance_eq_mod hc (hidxk ▸ Nat.mod_lt _ hc.nPat.1), hidxk, Nat.mod_add_mod,
        show (k + 1) / 2 = k / 2 + 1 by omega, Nat.add_assoc]

/-- Settles O25: by induction on the number of actions; `2 * N_PAT` of them advance `N_PAT` times, which is 0 modulo
`N_PAT`. -/
theorem patternEventsAlternateAndAdvance : Obligations.PatternEventsAlternateAndAdvance := by
  intro c r hc hrev hidx
  have hiter := patternAction_iterate ((wf_iff c).1 hc) hrev hidx
  obtain ⟨hrev', hidx', _⟩ := hiter (2 * c.nPat)
  refine ⟨hiter, BitVec.eq_of_toNat_eq ?_, hrev'.trans (by simp)⟩
  rw [hidx', Nat.mul_div_cancel_left _ (by decide), Nat.add_mod_right, Nat.mod_eq_of_lt hidx]

/-! ## The press at an edge -/

/-- What R123 and R127 say of the registers before and after an edge: one latch at most rises, and the other button's
action does not run. -/
def OnePress (r r' : Regs c) : Prop :=
  (r.spdLatch = false → r'.spdLatch = true →
    r'.patLatch = r.patLatch ∧ r'.rev = r.rev ∧ r'.idx.toNat = r.idx.toNat ∧ r'.sw = r.sw) ∧
  (r.patLatch = false → r'.patLatch = true →
    ¬ (r.spdLatch = false ∧ r'.spdLatch = true) ∧ r'.delay.toNat = r.delay.toNat)

/-- An edge at which no latch rises. -/
theorem onePress_of_noRise {r r' : Regs c} (hspd : r'.spdLatch = true → r.spdLatch = true)
    (hpat : r'.patLatch = true → r.patLatch = true) : OnePress r r' :=
  ⟨fun h h' => by simp [hspd h'] at h, fun h h' => by simp [hpat h'] at h⟩

/-- A poll runs one action at most (R123). -/
theorem onePress_of_polled {r r' : Regs c} (h : Polled r r') : OnePress r r' := by
  unfold Polled at h
  split at h
  next =>
    obtain ⟨_, _, hpat, hidx, hrev, hsw⟩ := h
    exact ⟨fun _ _ => ⟨hpat, hrev, congrArg _ hidx, hsw⟩, fun h0 h1 => by simp [hpat, h0] at h1⟩
  next =>
    obtain ⟨hspd, hdelay, _⟩ := h
    have hstays : r'.spdLatch = true → r.spdLatch = true := fun h1 => by
      rw [hspd] at h1
      split at h1
      · exact h1
      · cases h1
    exact ⟨fun h0 h1 => by simp [hstays h1] at h0,
      fun _ _ => ⟨fun ⟨h0, h1⟩ => by simp [hstays h1] at h0, congrArg _ hdelay⟩⟩

/-- Only the polls raise a latch (R34). -/
theorem execRegs_onePress (i : Instr) (s : State) : OnePress s.regs (execRegs i s) := by
  cases i with
  | poll1 | poll2 | poll3 => exact onePress_of_polled (poll_polled s.regs)
  | delay =>
    obtain ⟨_, _, _, hr⟩ := execRegs_delay_frame s
    rw [hr]
    exact onePress_of_noRise id id
  | passEnd =>
    obtain ⟨_, _, hr⟩ := execRegs_passEnd_frame s
    rw [hr]
    exact onePress_of_noRise id id
  | reservedD | reservedE | reservedF => exact onePress_of_noRise (fun h => by cases h) (fun h => by cases h)
  | _ => exact onePress_of_noRise id id

/-- Settles O26: a reset edge clears both latches, and no operation but a poll raises one. -/
theorem onePressAtAnEdge : Obligations.OnePressAtAnEdge := by
  intro s t hst
  obtain ⟨_, rfl⟩ := step_next hst
  show OnePress s.regs (nextRegs s)
  unfold nextRegs
  split
  · exact onePress_of_noRise (fun h => by cases h) (fun h => by cases h)
  · exact execRegs_onePress _ s

/-! ## Polls that see a button held -/

/-- One poll with the samples `x`, as `polls` makes it. -/
def pollWith (r : Regs c) (x : Bool × Bool) : Regs c := ({ r with spdS2 := x.1, patS2 := x.2 } : Regs c).poll

/-- What every poll of a sequence keeps holds after the sequence. -/
theorem polls_induct {P : Regs c → Prop} {xs : List (Bool × Bool)} (hpoll : ∀ x ∈ xs, ∀ q, P q → P (pollWith q x))
    {r : Regs c} (h : P r) : P (polls r xs) := by
  induction xs generalizing r with
  | nil => exact h
  | cons x xs ih => exact ih (fun y hy => hpoll y (List.mem_cons_of_mem x hy)) (hpoll x List.mem_cons_self r h)

/-- The first poll that sees the speed button runs its action (R121, R124). -/
theorem pollWith_firesSpeed {r : Regs c} (h : r.spdLatch = false) (p : Bool) :
    (pollWith r (true, p)).spdLatch = true ∧ (pollWith r (true, p)).delay.toNat = levelAfterSpeedAction r := by
  have hp : Polled _ (pollWith r (true, p)) := poll_polled _
  rw [Polled, if_pos ⟨rfl, h⟩] at hp
  obtain ⟨hspd, hacted, _⟩ := hp
  exact ⟨hspd, hacted⟩

/-- A poll that sees the speed button still pressed does nothing for it (R122). -/
theorem pollWith_heldSpeed {r : Regs c} (h : r.spdLatch = true) (p : Bool) :
    (pollWith r (true, p)).spdLatch = true ∧ (pollWith r (true, p)).delay = r.delay := by
  have hp : Polled _ (pollWith r (true, p)) := poll_polled _
  rw [Polled, if_neg (by simp [h])] at hp
  obtain ⟨hspd, hdelay, _⟩ := hp
  exact ⟨hspd.trans h, hdelay⟩

/-- The first poll that evaluates the pattern button and sees it runs its action (R121, R123, R125). -/
theorem pollWith_firesPattern {r : Regs c} (h : r.patLatch = false) {v : Bool}
    (hv : ¬ (v = true ∧ r.spdLatch = false)) :
    (pollWith r (v, true)).patLatch = true ∧ PatternActed r (pollWith r (v, true)) := by
  have hp : Polled _ (pollWith r (v, true)) := poll_polled _
  rw [Polled, if_neg hv] at hp
  obtain ⟨_, _, hp⟩ := hp
  rwa [if_pos ⟨rfl, h⟩] at hp

/-- A poll that sees the pattern button still pressed, or skips it, does nothing for it (R122, R123). -/
theorem pollWith_heldPattern {r : Regs c} (h : r.patLatch = true) (u : Bool) :
    (pollWith r (u, true)).patLatch = true ∧ (pollWith r (u, true)).idx = r.idx ∧
      (pollWith r (u, true)).rev = r.rev ∧ (pollWith r (u, true)).sw = r.sw := by
  have hp : Polled _ (pollWith r (u, true)) := poll_polled _
  unfold Polled at hp
  split at hp
  next =>
    obtain ⟨_, _, hpat, hidx, hrev, hsw⟩ := hp
    exact ⟨hpat.trans h, hidx, hrev, hsw⟩
  next =>
    obtain ⟨_, _, hp⟩ := hp
    rw [if_neg (by simp [h])] at hp
    obtain ⟨hpat, hidx, hrev, hsw⟩ := hp
    exact ⟨hpat.trans h, hidx, hrev, hsw⟩

/-- Settles O27: the first poll runs the action and sets the latch, and with the latch set every later poll keeps what
the action left, by induction on the polls. -/
theorem heldButtonActsOnce : Obligations.HeldButtonActsOnce := by
  refine ⟨fun c r p ps h => ?_, fun c r v vs h hv => ?_⟩
  · refine polls_induct (r := pollWith r (true, p))
      (P := fun q => q.spdLatch = true ∧ q.delay.toNat = levelAfterSpeedAction r) (fun x hx q ⟨hlatch, hacted⟩ => ?_)
      (pollWith_firesSpeed h p)
    obtain ⟨p', _, rfl⟩ := List.mem_map.1 hx
    obtain ⟨hspd, hdelay⟩ := pollWith_heldSpeed hlatch p'
    exact ⟨hspd, hdelay ▸ hacted⟩
  · refine polls_induct (r := pollWith r (v, true)) (P := fun q => q.patLatch = true ∧ PatternActed r q)
      (fun x hx q ⟨hlatch, hacted⟩ => ?_) (pollWith_firesPattern h hv)
    obtain ⟨u, _, rfl⟩ := List.mem_map.1 hx
    obtain ⟨hpat, hidx, hrev, hsw⟩ := pollWith_heldPattern hlatch u
    refine ⟨hpat, ?_⟩
    rw [PatternActed, hidx, hrev, hsw]
    exact hacted

/-! ## POLL1 -/

/-- Settles O30: POLL1 is one poll, which writes latches and playback state alone, and its successor. -/
theorem poll1PollsAfterTheLatch : Obligations.Poll1PollsAfterTheLatch := by
  refine fun s => ⟨decodeCode_encode .poll1, completes_of (by decide) ⟨poll_polled s.regs, rfl, ?_, ?_, ?_⟩⟩
  · simp [SameScan, execRegs, State.poll1Rule]
  · simp [SameShifter, execRegs, State.poll1Rule]
  · simp [SameTimer, execRegs, State.poll1Rule]

end Sys2Proof.Proofs
end

section
/-! PROOFS. A switch request ends the pass at the CHECK after the POLL3 of its step, and no sooner. -/

namespace Sys2Proof.Proofs

open Sys2Proof.Machine Sys2Proof.Laws

variable {s : State}

/-- The cycles of the delay whose counter was loaded in the `k`-th cycle of a run from `s` (R144, R145). -/
def loadedDelay (s : State) (k : Nat) : Nat := (regsAfter s k).ticks.toNat * s.cfg.tickCycles

theorem loadedDelay_stateAfter (s : State) (n k : Nat) : loadedDelay (stateAfter s n) k = loadedDelay s (n + k) :=
  congrArg (fun r : Regs s.cfg => r.ticks.toNat * s.cfg.tickCycles) (regsAfter_add s n k)

/-- From `s` the `n` operations `ops` run, then a CHECK, then PASS_END. -/
structure LeadsToPassEnd (s : State) (n : Nat) (ops : List Instr) : Prop where
  /-- The CHECK is `n` cycles from `s`. -/
  check      : (regsAfter s n).S = 0x1#4
  /-- PASS_END is next. -/
  passEnd    : (regsAfter s (n + 1)).S = 0xB#4
  /-- The trace is `ops CHECK PASS_END`. -/
  operations : trace (n + 2) s = ops ++ [.check, .passEnd]

/-- The operations of `k` cycles before such a run. -/
theorem LeadsToPassEnd.prepend (hc : s.cfg.wf = true) {k n m : Nat} {before ops : List Instr}
    (h : LeadsToPassEnd (stateAfter s k) n ops) (hb : trace k s = before) (hm : m = k + n) :
    LeadsToPassEnd s m (before ++ ops) := by
  obtain ⟨hcheck, hend, hops⟩ := h
  rw [regsAfter_add] at hcheck hend
  subst hm
  exact ⟨hcheck, hend, by rw [Nat.add_assoc, trace_split hc, hb, hops, List.append_assoc]⟩

/-- Such a run in the terms of `cycles`. -/
theorem LeadsToPassEnd.runs (hc : s.cfg.wf = true) {n m k : Nat} {ops : List Instr} (h : LeadsToPassEnd s n ops)
    (hm : m = n + 1) (hk : k = n + 2) :
    ∃ v w : Regs s.cfg, cycles n s = .next (s.later n v) ∧ v.S = 0x1#4 ∧ cycles m s = .next (s.later m w) ∧
      w.S = 0xB#4 ∧ trace k s = ops ++ [.check, .passEnd] := by
  subst hm hk
  exact ⟨_, _, cycles_eq hc n, h.check, cycles_eq hc (n + 1), h.passEnd, h.operations⟩

/-- With a switch requested, CHECK leads to PASS_END (R142). -/
theorem check_leadsToPassEnd (hc : s.cfg.wf = true) (hn : NoReset s 1) (hS : s.regs.S = 0x1#4)
    (hsw : s.regs.sw = true) : LeadsToPassEnd s 0 [] := by
  have hgo : s.regs.go = false := Bool.eq_false_iff.2 fun hgo => by simp [sw_of_go hgo] at hsw
  have hend : (regsAfter s 1).S = 0xB#4 := by
    rw [(regsAfter_one (i := .check) hn hS).1]
    simp [execRegs, State.checkRule, hgo, encode]
  refine ⟨hS, hend, ?_⟩
  rw [trace_succ hc, trace_one hc, currentInstr_eq_iff (i := .check).2 hS,
    currentInstr_eq_iff (s := stateAfter s 1) (i := .passEnd).2 hend]
  rfl

/-- After a POLL3 with a switch requested, before it or by its poll, the pass ends (R125, R146). -/
theorem poll3_leadsToPassEnd (hc : s.cfg.wf = true) (hn : NoReset s 2) (hS : s.regs.S = 0xA#4)
    (hsw : s.regs.sw = true ∨ RequestsSwitch s.regs) : LeadsToPassEnd s 1 [.poll3] := by
  have hregs := (regsAfter_one (i := .poll3) (noReset_mono hn (by omega)) hS).1
  have hrest : LeadsToPassEnd (stateAfter s 1) 0 [] :=
    check_leadsToPassEnd (s := stateAfter s 1) hc (noReset_stateAfter hn (by omega))
      (by rw [stateAfter_regs, hregs]; rfl) (by rw [stateAfter_regs, hregs]; exact (poll_sw_iff s.regs).2 hsw)
  exact hrest.prepend hc (by rw [trace_one hc, currentInstr_eq_iff (i := .poll3).2 hS]) rfl

/-- With a switch requested, the delay still runs in full (R145). -/
theorem delay_leadsToPassEnd (hc : s.cfg.wf = true) (hS : s.regs.S = 0x9#4) {d : Nat}
    (hd : delayLeft s.regs + 1 = d) (hn : NoReset s (d + 2)) (hsw : s.regs.sw = true) :
    LeadsToPassEnd s (d + 1) (List.replicate d .delay ++ [.poll3]) := by
  have hnd : NoReset s d := noReset_mono hn (by omega)
  obtain ⟨hops, hend⟩ := delay_runs hc hS hd hnd
  have hkept : (regsAfter s d).sw = true := (regsAfter_sw hc hnd fun i hi => by
    obtain rfl := List.eq_of_mem_replicate (hops ▸ hi)
    exact .inr (by simp [InStep, encode])).2 (.inl hsw)
  exact (poll3_leadsToPassEnd (s := stateAfter s d) hc (noReset_stateAfter hn le_rfl) hend (.inl hkept)).prepend hc hops
    rfl

/-- After a POLL2 with a switch requested, before it or by its poll, the delay it loads runs, and the pass ends
(R144). -/
theorem poll2_leadsToPassEnd (h : Inv s) (hS : s.regs.S = 0x8#4) (hsw : s.regs.sw = true ∨ RequestsSwitch s.regs)
    (hn : NoReset s (3 + s.cfg.delayWrap * s.cfg.tickCycles)) :
    (regsAfter s 1).S = 0x9#4 ∧
      LeadsToPassEnd s (2 + loadedDelay s 1) ([.poll2] ++ (List.replicate (loadedDelay s 1) .delay ++ [.poll3])) := by
  have hc := inv_config h
  obtain ⟨hregs, _⟩ := regsAfter_one (i := .poll2) (noReset_mono hn (by omega)) hS
  have hcode : (regsAfter s 1).S = 0x9#4 := by rw [hregs]; rfl
  have hticks : (regsAfter s 1).ticks = (regsAfter s 1).delay := by rw [hregs]; rfl
  have hpre : (regsAfter s 1).pre = tickReload s.cfg := by rw [hregs]; rfl
  have hkept : (regsAfter s 1).sw = true := by rw [hregs]; exact (poll_sw_iff s.regs).2 hsw
  have hlevel : isLevel s.cfg (regsAfter s 1).ticks.toNat := hticks ▸ (inv_stateAfter h 1).level
  have hlen : 39 + loadedDelay s 1 ≤ _ := stepLength_le hlevel
  have hrest := delay_leadsToPassEnd (s := stateAfter s 1) (d := loadedDelay s 1) h.config hcode
    (delayLeft_of_loaded hc (isLevel_pos hc hlevel) hpre) (noReset_stateAfter hn (by omega)) hkept
  exact ⟨hcode, hrest.prepend h.config (by rw [trace_one h.config, currentInstr_eq_iff (i := .poll2).2 hS]) (by omega)⟩

/-- After a POLL1 that requests a switch, POLL2 and the delay it loads run, and the pass ends (R143). -/
theorem poll1_leadsToPassEnd (h : Inv s) (hS : s.regs.S = 0x7#4) (hsw : RequestsSwitch s.regs)
    (hn : NoReset s (4 + s.cfg.delayWrap * s.cfg.tickCycles)) :
    (regsAfter s 2).S = 0x9#4 ∧
      LeadsToPassEnd s (3 + loadedDelay s 2)
        ([.poll1] ++ ([.poll2] ++ (List.replicate (loadedDelay s 2) .delay ++ [.poll3]))) := by
  obtain ⟨hregs, _⟩ := regsAfter_one (i := .poll1) (noReset_mono hn (by omega)) hS
  have hkept : (regsAfter s 1).sw = true := by rw [hregs]; exact (poll_sw_iff s.regs).2 (.inr hsw)
  obtain ⟨hcode, hrest⟩ := poll2_leadsToPassEnd (inv_stateAfter h 1) (by rw [stateAfter_regs, hregs]; rfl)
    (.inl hkept) (noReset_stateAfter hn (by rw [stateAfter_cfg]; omega))
  rw [regsAfter_add] at hcode
  rw [show loadedDelay (stateAfter s 1) 1 = loadedDelay s 2 from loadedDelay_stateAfter s 1 1] at hrest
  exact ⟨hcode, hrest.prepend h.config (by rw [trace_one h.config, currentInstr_eq_iff (i := .poll1).2 hS])
    (by omega)⟩

/-- Settles O44: the poll leaves `sw` at 1, the rest of the step keeps it there, and the step's next CHECK sees it. -/
theorem switchTakesEffectAtThePairBoundary : Obligations.SwitchTakesEffectAtThePairBoundary := by
  intro s h hsw hn
  have hc := h.config
  refine ⟨fun hS => ?_, fun hS => ?_, fun hS => ?_⟩
  · obtain ⟨hcode, hrun⟩ := poll1_leadsToPassEnd h hS hsw hn
    obtain ⟨v, w, hv, hvS, hw, hwS, hops⟩ :=
      hrun.runs hc (m := 4 + loadedDelay s 2) (k := 5 + loadedDelay s 2) (by omega) (by omega)
    exact ⟨regsAfter s 2, v, w, cycles_eq hc 2, hcode, hv, hvS, hw, hwS, by simpa [loadedDelay] using hops⟩
  · obtain ⟨hcode, hrun⟩ := poll2_leadsToPassEnd h hS (.inr hsw) (noReset_mono hn (by omega))
    obtain ⟨v, w, hv, hvS, hw, hwS, hops⟩ :=
      hrun.runs hc (m := 3 + loadedDelay s 1) (k := 4 + loadedDelay s 1) (by omega) (by omega)
    exact ⟨regsAfter s 1, v, w, cycles_eq hc 1, hcode, hv, hvS, hw, hwS, by simpa [loadedDelay] using hops⟩
  · exact (poll3_leadsToPassEnd hc (noReset_mono hn (by omega)) hS (.inr hsw)).runs hc rfl rfl

end Sys2Proof.Proofs
end

section
/-! PROOFS. The operations of the sequencer one by one: what they write and leave alone, the bounds the invariants give
their operands, and the delay and the empty reverse pass as runs. -/

namespace Sys2Proof.Proofs

open Sys2Proof.Machine Sys2Proof.Laws

variable {s : State}

/-! ## FWD_INIT -/

/-- The active entry is what `CatLookup` answers for the pattern index, without a check of the configuration (R140). -/
theorem activeEntry_eq {e : Entry} (he : IsCatLookup s.cfg s.regs.idx.toNat e) : s.regs.activeEntry = e :=
  isCatLookup_unique (isCatLookup_catLookup (List.length_pos_of_mem (isCatLookup_mem he)) _) he

/-- Settles O28: FWD_INIT takes all it loads from the active entry, which fits the offset registers under R8. -/
theorem fwdInitLatchesTheActiveEntry : Obligations.FwdInitLatchesTheActiveEntry := by
  intro s e he
  have hloads : (execRegs .fwdInit s).eStart = BitVec.ofNat s.cfg.cw e.start ∧
      (execRegs .fwdInit s).eLen = BitVec.ofNat s.cfg.cw e.len := activeEntry_eq he ▸ ⟨rfl, rfl⟩
  obtain ⟨hs, hl⟩ := hloads
  refine ⟨decodeCode_encode .fwdInit, Inv.restart, completes_of (by decide) ⟨hs, hl, hs, rfl, rfl, fun hc => ?_,
    ⟨rfl, rfl, rfl⟩, ⟨rfl, rfl⟩, ⟨rfl, rfl, rfl, rfl⟩, rfl, rfl⟩⟩
  obtain ⟨hs', hl'⟩ := fwdInit_catLookup ((wf_iff _).1 hc) he
  exact ⟨hs', hl', hs'⟩

/-! ## CHECK -/

/-- The successor of CHECK (R142). -/
theorem execRegs_check_S (s : State) : (execRegs .check s).S = if s.regs.go = true then 0x2#4 else 0xB#4 := by
  cases hgo : s.regs.go <;> simp [execRegs, State.checkRule, hgo, encode]

/-- The first CHECK of a reverse pass over an entry of length 4 ends the pass: no inner pair is left (R142, R148). -/
theorem revInit_shortEntry (h : Inv s) (hn : NoReset s 2) (hS : s.regs.S = 0xC#4) (hlen : s.regs.eLen.toNat = 4) :
    (regsAfter s 2).S = 0xB#4 := by
  have hfirst := (regsAfter_one (i := .revInit) (noReset_mono hn (by omega)) hS).1
  have hcheck : (regsAfter s 1).S = 0x1#4 := by rw [hfirst]; rfl
  have hleft : PairsLeft (regsAfter s 1) 0 := by simpa [hfirst, hlen] using revInit_pairsLeft h hS
  have hgo : ¬ (stateAfter s 1).regs.go = true := fun hgo =>
    Nat.lt_irrefl 0 ((go_iff (inv_stateAfter h 1) hcheck hleft).1 hgo).1
  rw [regsAfter_succ_of (hn 1 (by omega)) hcheck]
  exact (execRegs_check_S _).trans (if_neg hgo)

/-- Settles O29: `go` in each direction; the parity of the reverse offset leaves out `e_start + 2`. -/
theorem checkTestsTheRangeAndTheSwitch : Obligations.CheckTestsTheRangeAndTheSwitch := by
  refine fun s => ⟨decodeCode_encode .check, fun h hS hd => ?_, fun h hS hn => ?_, fun h hS hlen hn => ?_,
    completes_of (by decide) ⟨fun hd => ?_, fun hd => ?_, ⟨rfl, rfl, rfl, rfl⟩, ⟨rfl, rfl, rfl⟩, ⟨rfl, rfl⟩,
      ⟨rfl, rfl, rfl, rfl⟩, rfl, rfl⟩⟩
  · obtain ⟨hlo, _, hodd⟩ := h.revCheck hd hS
    omega
  · exact ⟨_, cycles_eq h.config 2,
      (fwdInit_toLoadA h.config hn hS (h.restart hS) (isCatLookup_catLookup (inv_config h).nPat.1 _)).2.1⟩
  · exact ⟨_, cycles_eq h.config 2, revInit_shortEntry h hn hS hlen⟩
  · exact (execRegs_check_S s).trans (if_congr (go_forward hd) rfl rfl)
  · exact (execRegs_check_S s).trans (if_congr (go_reverse hd) rfl rfl)

/-! ## POLL2 -/

/-- Settles O31: the loads of the delay counter come after the poll, which leaves scan and shifter alone. -/
theorem poll2PollsAndLoadsTheDelay : Obligations.Poll2PollsAndLoadsTheDelay := by
  refine fun s => ⟨decodeCode_encode .poll2, completes_of (by decide)
    ⟨poll_polled s.regs, rfl, tickReload_toNat s.cfg, rfl, execRegs_sameScan (.inr ?_), ?_⟩⟩
  · simp [InStep, encode]
  · simp [SameShifter, execRegs, State.poll2Rule]

/-! ## DELAY -/

/-- What one cycle of DELAY does to the delay counter and the code, in numbers (R145). -/
theorem execRegs_delay_counts (s : State) :
    if s.regs.pre.toNat ≠ 0 then
      (execRegs .delay s).pre.toNat = s.regs.pre.toNat - 1 ∧ (execRegs .delay s).ticks = s.regs.ticks ∧
        (execRegs .delay s).S = s.regs.S
    else if s.regs.ticks.toNat ≤ 1 then (execRegs .delay s).S = 0xA#4 ∧ SameTimer s.regs (execRegs .delay s)
    else
      (execRegs .delay s).ticks.toNat = s.regs.ticks.toNat - 1 ∧
        (execRegs .delay s).pre.toNat = s.cfg.tickCycles - 1 ∧ (execRegs .delay s).S = s.regs.S := by
  split_ifs with hpre hticks
  · have hne : s.regs.pre ≠ 0 := fun h0 => hpre (by simp [h0])
    rw [execRegs_delay_tickRuns hne]
    exact ⟨toNat_sub_one_of_ne_zero hne, rfl, rfl⟩
  · have hzero : s.regs.pre = 0 := BitVec.eq_of_toNat_eq (by simpa using hpre)
    rw [execRegs_delay_lastTick hzero hticks]
    exact ⟨rfl, rfl, rfl⟩
  · have hzero : s.regs.pre = 0 := BitVec.eq_of_toNat_eq (by simpa using hpre)
    have hne : s.regs.ticks ≠ 0 := fun h0 => hticks (by simp [h0])
    rw [execRegs_delay_nextTick hzero (by omega)]
    exact ⟨toNat_sub_one_of_ne_zero hne, tickReload_toNat s.cfg, rfl⟩

/-- Settles O32: DELAY writes its counter and its successor alone; the length is that of a counter just loaded. -/
theorem delayCountsTicksOfTickCycles : Obligations.DelayCountsTicksOfTickCycles := by
  refine ⟨fun s => ⟨decodeCode_encode .delay, completes_of (by decide) ⟨execRegs_delay_counts s, ?_⟩⟩,
    fun s hc hS hticks hpre => ?_⟩
  · obtain ⟨_, _, _, hr⟩ := execRegs_delay_frame s
    rw [hr]
    exact ⟨⟨rfl, rfl, rfl, rfl⟩, ⟨rfl, rfl, rfl⟩, ⟨rfl, rfl, rfl, rfl⟩, rfl, rfl⟩
  · intro n hn
    have hloaded : s.regs.pre = tickReload s.cfg := BitVec.eq_of_toNat_eq (hpre.trans (tickReload_toNat s.cfg).symm)
    have hleft : delayLeft s.regs + 1 = n := delayLeft_of_loaded ((wf_iff _).1 hc) hticks hloaded
    exact ⟨fun j hj => ⟨_, cycles_eq hc j, (regsAfter_delay hc hS (hleft ▸ hn) (by omega)).1⟩,
      _, cycles_eq hc n, (delay_runs hc hS hleft hn).2⟩

/-! ## POLL3 -/

/-- Settles O33: the offset of the next pair, which a pair in range keeps inside the latched entry. -/
theorem poll3PollsAndAdvancesTheOffset : Obligations.Poll3PollsAndAdvancesTheOffset := by
  refine fun s => ⟨decodeCode_encode .poll3, fun h hS hd => ?_, fun h hS hd => ?_,
    completes_of (by decide) ⟨poll_polled s.regs, rfl, rfl, ?_⟩⟩
  · have hend : s.regs.i.toNat + 2 ≤ s.regs.rangeEnd.toNat := h.fwdStep hd (by simp [InStep, hS])
    have hnext := nextOffset_forward (inv_config h) hd (hend.trans_lt s.regs.rangeEnd.isLt)
    simp only [Regs.nextOffset, hd, Bool.false_eq_true, if_false] at hnext
    exact ⟨hnext, hend⟩
  · have hstart := h.revStep hd (by simp [InStep, hS])
    have hnext := nextOffset_reverse (inv_config h) hd (by omega)
    simp only [Regs.nextOffset, hd, if_true] at hnext
    exact ⟨hnext, by omega⟩
  · simp [SameShifter, SameTimer, execRegs, State.poll3Rule]

/-! ## PASS_END -/

/-- The two branches of PASS_END (R147). -/
theorem execRegs_passEnd_branches (s : State) :
    if s.regs.dir = false ∧ s.regs.rev = true then
      (execRegs .passEnd s).S = 0xC#4 ∧ (execRegs .passEnd s).sw = s.regs.sw
    else (execRegs .passEnd s).S = 0x0#4 ∧ (execRegs .passEnd s).sw = false := by
  cases hd : s.regs.dir with
  | true =>
    obtain ⟨hS, hsw, _⟩ := passEnd_reverse hd
    rw [if_neg (by simp)]
    exact ⟨hS, hsw⟩
  | false =>
    obtain ⟨hS, hsw, _⟩ := passEnd_forward hd
    cases hrev : s.regs.rev <;> simpa [hrev] using And.intro hS hsw

/-- With a switch requested, REV_INIT starts an empty pass: its CHECK leads to PASS_END, in reverse (R142, R148). -/
theorem revInit_leadsToPassEnd (hc : s.cfg.wf = true) (hn : NoReset s 2) (hS : s.regs.S = 0xC#4)
    (hsw : s.regs.sw = true) : LeadsToPassEnd s 1 [.revInit] ∧ (regsAfter s 2).dir = true := by
  have hregs := (regsAfter_one (i := .revInit) (noReset_mono hn (by omega)) hS).1
  have hcheck : (regsAfter s 1).S = 0x1#4 := by rw [hregs]; rfl
  have hrest : LeadsToPassEnd (stateAfter s 1) 0 [] :=
    check_leadsToPassEnd (s := stateAfter s 1) hc (noReset_stateAfter hn (by omega)) hcheck
      (by rw [stateAfter_regs, hregs]; exact hsw)
  refine ⟨hrest.prepend hc (by rw [trace_one hc, currentInstr_eq_iff (i := .revInit).2 hS]) rfl, ?_⟩
  rw [regsAfter_succ_of (hn 1 (by omega)) hcheck]
  show (regsAfter s 1).dir = true
  rw [hregs]
  rfl

/-- A switch request that outlives a forward pass ends the reverse pass after it at its first CHECK (R147). -/
theorem passEnd_leadsToPassEnd (hc : s.cfg.wf = true) (hn : NoReset s 3) (hS : s.regs.S = 0xB#4)
    (hd : s.regs.dir = false) (hrev : s.regs.rev = true) (hsw : s.regs.sw = true) :
    LeadsToPassEnd s 2 [.passEnd, .revInit] ∧ (regsAfter s 3).dir = true := by
  have hregs := (regsAfter_one (i := .passEnd) (noReset_mono hn (by omega)) hS).1
  have hbranch := execRegs_passEnd_branches s
  rw [if_pos ⟨hd, hrev⟩, ← hregs] at hbranch
  obtain ⟨hS', hsw'⟩ := hbranch
  obtain ⟨hrest, hd'⟩ := revInit_leadsToPassEnd (s := stateAfter s 1) hc (noReset_stateAfter hn (by omega)) hS'
    (hsw'.trans hsw)
  rw [regsAfter_add] at hd'
  exact ⟨hrest.prepend hc (by rw [trace_one hc, currentInstr_eq_iff (i := .passEnd).2 hS]) rfl, hd'⟩

/-- Settles O34: the PASS_END of the empty reverse pass restarts with `sw` cleared. -/
theorem passEndReversesOrRestarts : Obligations.PassEndReversesOrRestarts := by
  refine fun s => ⟨decodeCode_encode .passEnd, fun hc hS hd hrev hsw hn => ?_,
    completes_of (by decide) ⟨execRegs_passEnd_branches s, ?_⟩⟩
  · obtain ⟨hrun, hd'⟩ := passEnd_leadsToPassEnd hc (noReset_mono hn (by omega)) hS hd hrev hsw
    obtain ⟨hS', hsw', _⟩ := passEnd_reverse (s := stateAfter s 3) hd'
    refine ⟨hrun.operations, _, cycles_eq hc 4, ?_⟩
    rw [regsAfter_succ_of (hn 3 (by omega)) hrun.passEnd]
    exact ⟨hS', hsw'⟩
  · obtain ⟨_, _, hr⟩ := execRegs_passEnd_frame s
    rw [hr]
    exact ⟨rfl, rfl, rfl, ⟨rfl, rfl, rfl, rfl⟩, ⟨rfl, rfl, rfl⟩, ⟨rfl, rfl⟩, rfl, rfl⟩

/-! ## REV_INIT -/

/-- Settles O35: the latched entry has at least 4 bytes and does not pass the end of the offset register, so the reverse
start does not wrap. -/
theorem revInitStartsBeforeTheLastPair : Obligations.RevInitStartsBeforeTheLastPair := by
  refine fun s => ⟨decodeCode_encode .revInit, completes_of (by decide) ⟨rfl, rfl, rfl, fun h hS => ?_, rfl, rfl,
    ⟨rfl, rfl, rfl⟩, ⟨rfl, rfl⟩, ⟨rfl, rfl, rfl, rfl⟩, rfl, rfl⟩⟩
  obtain ⟨_, hmin, _, hfit⟩ := inv_latched h (by simp [hS])
  have hstart : (execRegs .revInit s).i.toNat + 3 = _ := reverseStart_toNat (inv_config h) hfit (by omega)
  exact ⟨hstart, by omega⟩

end Sys2Proof.Proofs
end

section
/-! PROOFS. The exceptions: no operation raises anything or stalls. -/

namespace Sys2Proof.Proofs

open Sys2Proof.Machine Sys2Proof.Laws

/-- Settles O7: `execRegs` is total, and `exec_eq` says of each of the 16 operations, the reserved ones among them, that
its answer is those registers one cycle later. -/
theorem everyOperationCompletesInOneCycle : Obligations.EveryOperationCompletesInOneCycle :=
  fun i s => ⟨execRegs i s, exec_eq i s⟩

end Sys2Proof.Proofs
end

section
/-! PROOFS. A reset edge and the first edge after it. -/

namespace Sys2Proof.Proofs

open Sys2Proof.Machine Sys2Proof.Laws

variable {s : State}

/-- In `RESET_STATE` the shift register is clear, the code is neither SHIFT_HI nor LATCH, and the address is the forward
`a_first` at offset 0 (R38, R44, R51). -/
theorem outputs_of_isResetState (h : IsResetState s.regs) : s.outputs = ⟨false, false, false, 0⟩ := by
  obtain ⟨hS, hdir, _, _, hshreg, hi, _⟩ := h
  have hdata : s.outputs.serData = false := by simp [State.outputs, hshreg]
  obtain ⟨hclk, hlatch⟩ := lines_low (s := s) (by simp [hS]) (by simp [hS])
  have haddr : s.outputs.memAddr = 0 := by simp [State.outputs, Regs.memAddr, Regs.aFirst, hS, hdir, hi, encode]
  exact (Outputs.mk.injEq ..).mpr ⟨hdata, hclk, hlatch, haddr⟩

/-- Settles O4: a reset edge loads `RESET_STATE` (`nextRegs_eq_reset`); without one the step is the operation of
`RESET_STATE`'s code 0, which is FWD_INIT. -/
theorem resetOverridesEverything : Obligations.ResetOverridesEverything := by
  refine ⟨fun s hc hr => ⟨nextRegs s, step_eq hc, ?_⟩, fun s hc hreset hr => ?_⟩
  · have hreset : IsResetState (nextRegs s) := nextRegs_eq_reset (.inl hr) ▸ isResetState_reset s.cfg
    exact ⟨hreset, outputs_of_isResetState (s := s.later 1 (nextRegs s)) hreset, State.later_storeByte s 1 _⟩
  · obtain ⟨hS, _, _, _, _, _, _, _, _, _, hidx, _⟩ := hreset
    have hop : decodeCode s.regs.S = .fwdInit := hS ▸ decodeCode_encode .fwdInit
    exact ⟨hop ▸ step_eq_exec hc hr, by simp [hidx]⟩

end Sys2Proof.Proofs
end

section
/-! PROOFS. What every step keeps and where it leads: the invariants of R45 and the successor table of R42. -/

namespace Sys2Proof.Proofs

open Sys2Proof.Machine Sys2Proof.Laws

/-- Settles O41: a reset edge loads `RESET_STATE`, which meets the invariants (`inv_of_isResetState`); every other edge
runs the operation of the state's own code, which keeps them clause by clause (`execRegs_keeps_inv`). -/
theorem everyStepKeepsTheInvariants : Obligations.EveryStepKeepsTheInvariants := step_keeps_inv

/-- Settles O37: a reset edge loads FWD_INIT's code; every other edge runs the operation of the code in `S`, which leaves
one of its successors (`execRegs_S_mem`). -/
theorem nextCodeIsAListedSuccessor : Obligations.NextCodeIsAListedSuccessor := by
  refine fun s hc => ⟨nextRegs s, step_eq hc, ?_⟩
  split
  case isTrue hr =>
    rw [nextRegs_eq_reset (.inl hr)]
    rfl
  case isFalse hr =>
    rw [nextRegs_of (Bool.eq_false_of_not_eq_true hr) rfl]
    exact execRegs_S_mem (encode_decodeCode s.regs.S).symm

end Sys2Proof.Proofs
end
